-- ==== Sys2Proof/Word.lean ====
section
/-! DEFINITION. Bytes, words and the operand forms of instructions (00_scope R7, R8; 30_encoding R89). -/

namespace Sys2Proof

/-- "8-bit unsigned value" (00_scope R7). -/
abbrev Byte := BitVec 8

/-- "16-bit unsigned value" (00_scope R7). -/
abbrev Word := BitVec 16

/-- The addressing-mode tags with their operand bytes (30_encoding R89). Of the eleven tags, Indirect belongs to
JMP alone and is a `JumpTarget`; the branches' tag Relative (R102) is their offset argument; an implied
instruction has no argument, and `acc` is the accumulator form of the one tag Accumulator/implied (R92). -/
inductive AddrMode where
  | imm  (v : Byte)      -- Immediate, R90
  | zp   (addr : Byte)   -- ZeroPage, R91
  | zpx  (addr : Byte)   -- ZeroPageX, R93
  | zpy  (addr : Byte)   -- ZeroPageY, R94
  | acc                  -- Accumulator, R92
  | abs  (addr : Word)   -- Absolute, R95
  | absx (addr : Word)   -- AbsoluteX, R96
  | absy (addr : Word)   -- AbsoluteY, R97
  | indx (ptr : Byte)    -- IndirectX, R99
  | indy (ptr : Byte)    -- IndirectY, R98
  deriving DecidableEq, Repr

/-- The two operand forms of JMP (46_jump_call_interrupt R170). -/
inductive JumpTarget where
  | abs (addr : Word)    -- Absolute, R95
  | ind (ptr : Word)     -- Indirect, R100
  deriving DecidableEq, Repr

end Sys2Proof
end

