-- ==== Sys2Proof/Config.lean ====
section
/-! DEFINITION. The parameters of the machine: the fixed ones (00_scope R4) and the open ones (00_scope R5).
`OPCODE_MAP` is the decoder's table in Sys2Proof/Decode.lean. -/

namespace Sys2Proof

/-- Which of the two instructions asks `Config.addSub` (49_add_subtract R200). -/
inductive AddSubOp where
  | adc
  | sbc
  deriving DecidableEq, Repr

/-- What `ADDSUB` returns: the new A and the flags Carry, Zero, Overflow, Negative (49_add_subtract R200). -/
structure AddSubResult where
  a : Byte
  c : Bool
  z : Bool
  v : Bool
  n : Bool
  deriving DecidableEq, Repr, Inhabited

/-- The two values of `BIT_POLICY` (41_logical R123). -/
inductive BitPolicy where
  | standard
  | undefinedNop
  deriving DecidableEq, Repr, Inhabited

/-- `S_RESET` (10_state R26). DESIGN CHOICE of the spec (D1), assumption 1, unsafe. -/
def Config.sReset : Byte := 0xFF

/-- `INDY_PTR_WRAP` (30_encoding R98). DESIGN CHOICE of the spec (D8), assumption 5, unsafe. -/
def Config.indyPtrWrap : Bool := true

/-- `STRICT_DECODE` (48_flag_nop R198). The core contract's value (D9), assumption 6, unsafe for a strict build. -/
def Config.strictDecode : Bool := false

/-- `BIT_POLICY` (41_logical R123): OPEN, so nothing fixes it. DESIGN CHOICE, assumption 3, safe. -/
opaque Config.bitPolicy : BitPolicy

/-- `ADDSUB` (49_add_subtract R200): OPEN, a total function of the operation, A, the operand byte and P of which
nothing is assumed. DESIGN CHOICE, assumption 4, safe. -/
opaque Config.addSub : AddSubOp → Byte → Byte → Byte → AddSubResult

/-- `PROGRAM_BASE` (00_scope R4). -/
def Config.programBase : Word := 0x8000

/-- `STACK_BASE` (00_scope R4). -/
def Config.stackBase : Word := 0x0100

/-- `BRK_VECTOR` (00_scope R4). -/
def Config.brkVector : Word := 0xFFFE

/-- The longest image `load_program` takes (70_reset_and_hazards R231). DESIGN CHOICE of the spec (D14), assumption 15. -/
def Config.maxImage : Nat := 32768

end Sys2Proof
end

