-- ==== Sys2Proof/Machine/Bits.lean ====
section
/-! DEFINITION. Byte-order, extension and splitting helpers (00_scope R8). -/

namespace Sys2Proof.Machine

/-- `w[7:0]`, the low byte of a Word. -/
def loByte (w : Word) : Byte := w.extractLsb' 0 8

/-- `w[15:8]`, the high byte of a Word. -/
def hiByte (w : Word) : Byte := w.extractLsb' 8 8

/-- `hi ++ lo`, the Word `hi * 256 + lo`. -/
def wordOf (hi lo : Byte) : Word := hi ++ lo

/-- `zext_16(b)`. -/
def zext16 (b : Byte) : Word := b.setWidth 16

/-- `sext_16(b)`: `b` if bit 7 is 0, `0xFF00 + b` if it is 1. -/
def sext16 (b : Byte) : Word := if b.getLsbD 7 then 0xFF00 + zext16 b else zext16 b

end Sys2Proof.Machine
end

