-- ==== Sys2Proof/Machine/State.lean ====
section
/-! DEFINITION. The whole architectural state (10_state R20), the flags' names, what a step can stop with, and the
state after construction (10_state R40, 70_reset_and_hazards R230). -/

namespace Sys2Proof.Machine

/-- Memory as (address, byte) pairs in one canonical form (`Memory.wf`); an address that is not listed reads as
`unlistedByte`. -/
abbrev Memory := List Host.Cell

/-- What an unlisted address reads as: "AddressSpace is constructed zero-filled" (10_state R40). -/
def unlistedByte : Byte := 0

/-- The canonical form: addresses strictly rising and inside the 65536 bytes of 20_memory R50, and no entry equal to
what an unlisted address reads as. -/
abbrev Memory.wf (m : Memory) : Prop :=
  m.Pairwise (fun c d => c.1 < d.1) ∧ ∀ c ∈ m, c.1 < 65536 ∧ c.2 ≠ unlistedByte

/-- The tuple (A, X, Y, S, P, PC, M) of 10_state R20; there is no other state (R36, R37, R39). -/
structure State where
  /-- A, the accumulator (R21). -/
  a : Byte
  /-- X, index register (R22). -/
  x : Byte
  /-- Y, index register (R23). -/
  y : Byte
  /-- S, the stack pointer: an offset in the page 0x0100 to 0x01FF (R25). -/
  sp : Byte
  /-- P, the status byte; all eight bits are storage (R27). -/
  p : Byte
  /-- PC, the program counter (R24). -/
  pc : Word
  /-- M, the 65536 bytes of memory (R38). -/
  mem : Memory
  deriving DecidableEq, Repr

/-- The named bits of P (10_state R27); their positions are `flagPos` in Sys2Proof/Machine/Flags.lean. -/
inductive Flag where
  | c   -- Carry, R28
  | z   -- Zero, R29
  | i   -- InterruptDisable, R30
  | d   -- DecimalMode, R31
  | b   -- Break, R32
  | v   -- Overflow, R34
  | n   -- Negative, R35
  deriving DecidableEq, Repr

/-- Why the machine stops with a fault. -/
inductive Fault where
  /-- Raised by an undefined opcode byte when `Config.strictDecode` is true (48_flag_nop R198, 60_exceptions R211):
  "a fatal decode fault surfaced to the host". Safe: no state follows it. With the core contract's parameter no step
  raises it. -/
  | decodeFault (opc : Byte)
  deriving DecidableEq, Repr

/-- Why there is no outcome. -/
inductive Refusal where
  /-- Raised by an arm of `exec` that has no meaning. No arm is one. Safe. -/
  | notModelled (mnemonic : String)
  /-- Raised by the host's `load_program` for an image of more than 32768 bytes (70_reset_and_hazards R231); no
  instruction raises it. Safe. -/
  | imageTooLong (len : Nat)
  deriving DecidableEq, Repr

/-- The machine after construction (10_state R40, 70_reset_and_hazards R230). `sp` is `S_RESET`, assumption 1. -/
def State.reset : State where
  a := 0
  x := 0
  y := 0
  sp := Config.sReset
  p := 0
  pc := Config.programBase
  mem := []

end Sys2Proof.Machine
end

