-- ==== Sys2Proof/Machine/Flags.lean ====
section
/-! DEFINITION. Every flag computation and every arithmetic result that feeds one, as functions of bytes. -/

namespace Sys2Proof.Machine

/-- The bit of P a flag stands at: "Carry=0, Zero=1, InterruptDisable=2, DecimalMode=3, Break=5, Overflow=6,
Negative=7" (10_state R27). -/
def flagPos : Flag → Nat
  | .c => 0
  | .z => 1
  | .i => 2
  | .d => 3
  | .b => 5
  | .v => 6
  | .n => 7

/-- The mask column of 10_state R27. -/
def flagMask (f : Flag) : Byte := BitVec.twoPow 8 (flagPos f)

/-- The flag's value in P. -/
def getFlag (p : Byte) (f : Flag) : Bool := p.getLsbD (flagPos f)

/-- `P.f <- on`: that one bit, the other seven unchanged (00_scope R9). -/
def setFlag (p : Byte) (f : Flag) (on : Bool) : Byte :=
  if on then p ||| flagMask f else p &&& ~~~ flagMask f

/-- `setZN(v)` (10_state R33). -/
def setZN (p v : Byte) : Byte :=
  setFlag (setFlag p .z (decide (v = 0))) .n (v.getLsbD 7)

/-- `compare(r, v)` (43_compare R140). -/
def compareFlags (p r v : Byte) : Byte :=
  setFlag (setFlag (setFlag p .c (decide (v.toNat ≤ r.toNat))) .z (decide (r = v))) .n ((r - v).getLsbD 7)

/-- BIT under `BIT_POLICY = standard`: Z from A & v, N and V from bits 7 and 6 of v (41_logical R123). -/
def bitFlags (p a v : Byte) : Byte :=
  setFlag (setFlag (setFlag p .z (decide (a &&& v = 0))) .n (v.getLsbD 7)) .v (v.getLsbD 6)

/-- The Carry as a byte, 0 or 1. -/
def carryByte (c : Bool) : Byte := if c then 1 else 0

/-- ASL of v: the result and the evicted bit (42_shift_rotate R130). -/
def aslByte (v : Byte) : Byte × Bool := (v <<< 1, v.getLsbD 7)

/-- LSR of v (42_shift_rotate R131). -/
def lsrByte (v : Byte) : Byte × Bool := (v >>> 1, v.getLsbD 0)

/-- ROL of v with the prior Carry (42_shift_rotate R132). -/
def rolByte (v : Byte) (c : Bool) : Byte × Bool := ((v <<< 1) ||| carryByte c, v.getLsbD 7)

/-- ROR of v with the prior Carry (42_shift_rotate R133). -/
def rorByte (v : Byte) (c : Bool) : Byte × Bool := ((v >>> 1) ||| (carryByte c <<< 7), v.getLsbD 0)

/-- P after a shift or rotate: C the evicted bit, Z and N from the result (42_shift_rotate). -/
def shiftFlags (p : Byte) (r : Byte × Bool) : Byte := setZN (setFlag p .c r.2) r.1

/-- P after ADC or SBC: C, Z, V, N as `ADDSUB` returned them (49_add_subtract R201). -/
def addSubFlags (p : Byte) (r : AddSubResult) : Byte :=
  setFlag (setFlag (setFlag (setFlag p .c r.c) .z r.z) .v r.v) .n r.n

/-- The candidate `ADDSUB_STUB` (49_add_subtract R203 (a)); asserted of nothing. -/
def addSubStub (_op : AddSubOp) (a _m p : Byte) : AddSubResult where
  a := a
  c := getFlag p .c
  z := getFlag p .z
  v := getFlag p .v
  n := getFlag p .n

/-- The candidate `ADDSUB_BINARY` (49_add_subtract R203 (b)); asserted of nothing. -/
def addSubBinary (op : AddSubOp) (a m p : Byte) : AddSubResult :=
  let mm : Byte := match op with
    | .adc => m
    | .sbc => m ^^^ 0xFF
  let sum : Nat := a.toNat + mm.toNat + (carryByte (getFlag p .c)).toNat
  let r : Byte := BitVec.ofNat 8 sum
  { a := r
    c := decide (255 < sum)
    z := decide (r = 0)
    v := ((a ^^^ r) &&& (mm ^^^ r)).getLsbD 7
    n := r.getLsbD 7 }

end Sys2Proof.Machine
end

