-- ==== Sys2Proof/Machine/Ops.lean ====
section
/-! DEFINITION. The named operations over registers, memory and the stack, and entering and leaving the software
interrupt (20_memory R52 to R61, 46_jump_call_interrupt R173, R174). -/

namespace Sys2Proof.Machine

/-! ## Registers -/

/-- `A <- v` (00_scope R9). -/
def State.setA (s : State) (v : Byte) : State := { s with a := v }

/-- `X <- v`. -/
def State.setX (s : State) (v : Byte) : State := { s with x := v }

/-- `Y <- v`. -/
def State.setY (s : State) (v : Byte) : State := { s with y := v }

/-- `S <- v`. -/
def State.setSp (s : State) (v : Byte) : State := { s with sp := v }

/-- `P <- v`, all eight bits. -/
def State.setP (s : State) (v : Byte) : State := { s with p := v }

/-- `pc <- w`. -/
def State.setPc (s : State) (w : Word) : State := { s with pc := w }

/-- Replace the memory. -/
def State.setMem (s : State) (m : Memory) : State := { s with mem := m }

/-- `pc <- (pc + n) mod 65536` (30_encoding R84). -/
def State.advance (s : State) (n : Word) : State := s.setPc (s.pc + n)

/-- The value of a flag. -/
def State.flag (s : State) (f : Flag) : Bool := getFlag s.p f

/-- `P.f <- on`. -/
def State.putFlag (s : State) (f : Flag) (on : Bool) : State := s.setP (setFlag s.p f on)

/-- `setZN(v)` on the state's P (10_state R33). -/
def State.putZN (s : State) (v : Byte) : State := s.setP (setZN s.p v)

/-! ## Memory as data -/

/-- The byte at an address; an unlisted address reads as `unlistedByte`. -/
def memGet : Memory → Nat → Byte
  | [], _ => unlistedByte
  | (k, w) :: rest, a => if k = a then w else memGet rest a

/-- Remove the entry of an address. -/
def memErase (m : Memory) (a : Nat) : Memory := m.filter (fun c => decide (c.1 ≠ a))

/-- Put an entry at its place. -/
def memInsert : Memory → Nat → Byte → Memory
  | [], a, v => [(a, v)]
  | (k, w) :: rest, a, v =>
    if a < k then (a, v) :: (k, w) :: rest
    else if a = k then (a, v) :: rest
    else (k, w) :: memInsert rest a v

/-- Write one byte and keep the canonical form: the value an unlisted address reads as is not listed. -/
def memPut (m : Memory) (a : Nat) (v : Byte) : Memory :=
  if v = unlistedByte then memErase m a else memInsert m a v

/-! ## Memory access -/

/-- `MemRead(addr, 1)` (20_memory R52). -/
def State.read (s : State) (addr : Word) : Byte := memGet s.mem addr.toNat

/-- `MemWrite(addr, 1, v)` (20_memory R54). -/
def State.write (s : State) (addr : Word) (v : Byte) : State := s.setMem (memPut s.mem addr.toNat v)

/-- `MemRead(addr, 2)`: low byte at addr, high byte at (addr + 1) mod 65536 (20_memory R53). -/
def State.read16 (s : State) (addr : Word) : Word := wordOf (s.read (addr + 1)) (s.read addr)

/-- `MemWrite(addr, 2, v)` (20_memory R55). -/
def State.write16 (s : State) (addr : Word) (v : Word) : State :=
  (s.write addr (loByte v)).write (addr + 1) (hiByte v)

/-- `MemReadZP16(p)`: both bytes from the zero page (20_memory R56). -/
def State.readZP16 (s : State) (p : Byte) : Word := wordOf (s.read (zext16 (p + 1))) (s.read (zext16 p))

/-- `MemReadPageWrap16(ptr)`: the high byte from the same page, "replicate the hardware defect" (20_memory R57). -/
def State.readPageWrap16 (s : State) (ptr : Word) : Word :=
  wordOf (s.read ((ptr &&& 0xFF00) ||| ((ptr + 1) &&& 0x00FF))) (s.read ptr)

/-- Write consecutive bytes from an address upward, addresses wrapping. -/
def State.writeBytes (s : State) (addr : Word) : List Byte → State
  | [] => s
  | v :: rest => (s.write addr v).writeBytes (addr + 1) rest

/-! ## Stack -/

/-- The address a stack access uses: `0x0100 | S` (10_state R25). -/
def stackAddr (sp : Byte) : Word := Config.stackBase ||| zext16 sp

/-- `push8(v)` (20_memory R58). -/
def State.push8 (s : State) (v : Byte) : State := (s.write (stackAddr s.sp) v).setSp (s.sp - 1)

/-- `pop8()`: the byte and the state after it (20_memory R59). -/
def State.pop8 (s : State) : Byte × State := (s.read (stackAddr (s.sp + 1)), s.setSp (s.sp + 1))

/-- `push16(w)`: the high byte first (20_memory R60). DESIGN CHOICE of the spec (D7), assumption 7, unsafe. -/
def State.push16 (s : State) (w : Word) : State := (s.push8 (hiByte w)).push8 (loByte w)

/-- `pop16()`: the low byte first (20_memory R61). -/
def State.pop16 (s : State) : Word × State :=
  let lo := s.pop8
  let hi := lo.2.pop8
  (wordOf hi.1 lo.1, hi.2)

/-! ## The software interrupt -/

/-- Entering the software interrupt (46_jump_call_interrupt R173, 60_exceptions R214): push the PC `ret`, push P as it
is, set Break, load PC from the vector. DESIGN CHOICE of the spec (D5, D6), assumption 8, unsafe. -/
def State.enterInterrupt (s : State) (ret : Word) : State :=
  let pushed := (s.push16 ret).push8 s.p
  { pushed with p := setFlag s.p .b true, pc := pushed.read16 Config.brkVector }

/-- Returning from it (46_jump_call_interrupt R174, 60_exceptions R215): pop P, all eight bits, then PC. -/
def State.leaveInterrupt (s : State) : State :=
  let status := s.pop8
  let target := (status.2.setP status.1).pop16
  target.2.setPc target.1

end Sys2Proof.Machine
end

