-- ==== Sys2Proof/Machine/Operands.lean ====
section
/-! DEFINITION. The addressing-mode resolver (30_encoding R89 to R102). The state given is the one the handler
starts in, so its pc is `pc_h`, the address of the first operand byte (30_encoding R83; assumption 16). -/

namespace Sys2Proof.Machine

/-- `nbytes(mode)`, the operand byte-count (30_encoding R90 to R99). -/
def nbytes : AddrMode → Word
  | .acc => 0
  | .imm _ | .zp _ | .zpx _ | .zpy _ | .indx _ | .indy _ => 1
  | .abs _ | .absx _ | .absy _ => 2

/-- The base pointer of IndirectY: with `wrap` both bytes come from the zero page, without it the high byte comes
from pointer + 1 (30_encoding R98, `INDY_PTR_WRAP`). -/
def indyBase (wrap : Bool) (p : Byte) (s : State) : Word :=
  if wrap then s.readZP16 p else s.read16 (zext16 p)

/-- `EA(mode)`; the accumulator form has none (30_encoding R90 to R99). -/
def ea (m : AddrMode) (s : State) : Option Word :=
  match m with
  | .imm _ => some s.pc
  | .zp b => some (zext16 b)
  | .zpx b => some (zext16 (b + s.x))
  | .zpy b => some (zext16 (b + s.y))
  | .acc => none
  | .abs w => some w
  | .absx w => some (w + zext16 s.x)
  | .absy w => some (w + zext16 s.y)
  | .indx b => some (s.readZP16 (b + s.x))
  | .indy b => some (indyBase Config.indyPtrWrap b s + zext16 s.y)

/-- `operand(mode)` (30_encoding R101). The immediate operand is the byte at `pc_h`, which the decoded instruction
carries (assumption 11). -/
def operand (m : AddrMode) (s : State) : Byte :=
  match m with
  | .imm v => v
  | m =>
    match ea m s with
    | some addr => s.read addr
    | none => s.a

/-- `result(mode, v)` (30_encoding R101). -/
def result (m : AddrMode) (v : Byte) (s : State) : State :=
  match ea m s with
  | some addr => s.write addr v
  | none => s.setA v

/-- The target of a JMP (30_encoding R95, R100). -/
def jumpAddr (t : JumpTarget) (s : State) : Word :=
  match t with
  | .abs w => w
  | .ind ptr => s.readPageWrap16 ptr

end Sys2Proof.Machine
end

