-- ==== Sys2Proof/Machine/AddSub.lean ====
section
/-! DEFINITION. Add and subtract with carry: ADC, SBC under `ADDSUB` (49_add_subtract). -/

namespace Sys2Proof.Machine

/-- A and the flags C, Z, V, N from `ADDSUB` of (op, A, operand, P); nothing else changes but the pc
(49_add_subtract R200 to R202). -/
def addSubWith (f : AddSubOp → Byte → Byte → Byte → AddSubResult) (op : AddSubOp) (m : AddrMode) (s : State) : State :=
  let r := f op s.a (operand m s) s.p
  ((s.setA r.a).setP (addSubFlags s.p r)).advance (nbytes m)

/-- ADC under the open `ADDSUB` (49_add_subtract R201). DESIGN CHOICE, assumption 4: a free value. -/
def execAdc (m : AddrMode) (s : State) : Host.Outcome State Fault Refusal :=
  .next (addSubWith Config.addSub .adc m s)

/-- SBC under the open `ADDSUB` (49_add_subtract R202). DESIGN CHOICE, assumption 4: a free value. -/
def execSbc (m : AddrMode) (s : State) : Host.Outcome State Fault Refusal :=
  .next (addSubWith Config.addSub .sbc m s)

end Sys2Proof.Machine
end

