-- ==== Sys2Proof/Machine/Branch.lean ====
section
/-! DEFINITION. Conditional branches: BCC, BCS, BEQ, BNE, BMI, BPL, BVC, BVS (45_branch). -/

namespace Sys2Proof.Machine

/-- `branch(cond)`: PC past the offset byte, then the signed offset if the condition holds (45_branch R160). -/
def branch (cond : Bool) (off : Byte) (s : State) : State :=
  s.setPc (if cond then s.pc + 1 + sext16 off else s.pc + 1)

/-- BCC: branch if Carry clear (45_branch R161). The flag and sense are PRESUMED from the mnemonic (D21), assumption 13. -/
def execBcc (off : Byte) (s : State) : Host.Outcome State Fault Refusal :=
  .next (branch (!s.flag .c) off s)

/-- BCS: branch if Carry set (45_branch R162). The flag and sense are PRESUMED from the mnemonic (D21), assumption 13. -/
def execBcs (off : Byte) (s : State) : Host.Outcome State Fault Refusal :=
  .next (branch (s.flag .c) off s)

/-- BEQ: branch if Zero set (45_branch R163). The flag and sense are PRESUMED from the mnemonic (D21), assumption 13. -/
def execBeq (off : Byte) (s : State) : Host.Outcome State Fault Refusal :=
  .next (branch (s.flag .z) off s)

/-- BNE: branch if Zero clear (45_branch R164). The flag and sense are PRESUMED from the mnemonic (D21), assumption 13. -/
def execBne (off : Byte) (s : State) : Host.Outcome State Fault Refusal :=
  .next (branch (!s.flag .z) off s)

/-- BMI: branch if Negative set (45_branch R165). The flag and sense are PRESUMED from the mnemonic (D21), assumption 13. -/
def execBmi (off : Byte) (s : State) : Host.Outcome State Fault Refusal :=
  .next (branch (s.flag .n) off s)

/-- BPL: branch if Negative clear (45_branch R166). -/
def execBpl (off : Byte) (s : State) : Host.Outcome State Fault Refusal :=
  .next (branch (!s.flag .n) off s)

/-- BVC: branch if Overflow clear (45_branch R167). The flag and sense are PRESUMED from the mnemonic (D21), assumption 13. -/
def execBvc (off : Byte) (s : State) : Host.Outcome State Fault Refusal :=
  .next (branch (!s.flag .v) off s)

/-- BVS: branch if Overflow set (45_branch R168). The flag and sense are PRESUMED from the mnemonic (D21), assumption 13. -/
def execBvs (off : Byte) (s : State) : Host.Outcome State Fault Refusal :=
  .next (branch (s.flag .v) off s)

end Sys2Proof.Machine
end

