-- ==== Sys2Proof/Machine/Compare.lean ====
section
/-! DEFINITION. Compare: CMP, CPX, CPY (43_compare). -/

namespace Sys2Proof.Machine

/-- "Carry is set iff register ≥ operand; Zero iff equal; Negative from bit 7 of the wraparound subtraction"
(43_compare R140). -/
def compareWith (r : Byte) (m : AddrMode) (s : State) : State :=
  (s.setP (compareFlags s.p r (operand m s))).advance (nbytes m)

/-- CMP: compare A with the operand (43_compare R141). -/
def execCmp (m : AddrMode) (s : State) : Host.Outcome State Fault Refusal :=
  .next (compareWith s.a m s)

/-- CPX: compare X with the operand (43_compare R142). -/
def execCpx (m : AddrMode) (s : State) : Host.Outcome State Fault Refusal :=
  .next (compareWith s.x m s)

/-- CPY: compare Y with the operand (43_compare R143). -/
def execCpy (m : AddrMode) (s : State) : Host.Outcome State Fault Refusal :=
  .next (compareWith s.y m s)

end Sys2Proof.Machine
end

