-- ==== Sys2Proof/Machine/Logical.lean ====
section
/-! DEFINITION. Logical: AND, ORA, EOR, and BIT under `BIT_POLICY` (41_logical); and what an undefined opcode byte does
(48_flag_nop R198), which BIT shares. -/

namespace Sys2Proof.Machine

/-- "Combine the accumulator with the operand; recompute Zero/Negative" (41_logical). -/
def accumulate (f : Byte → Byte → Byte) (m : AddrMode) (s : State) : State :=
  ((s.setA (f s.a (operand m s))).putZN (f s.a (operand m s))).advance (nbytes m)

/-- AND: A <- A & v (41_logical R120). The Boolean operation is PRESUMED from the mnemonic (D21), assumption 13. -/
def execAnd (m : AddrMode) (s : State) : Host.Outcome State Fault Refusal :=
  .next (accumulate (fun a v => a &&& v) m s)

/-- ORA: A <- A | v (41_logical R121). The Boolean operation is PRESUMED from the mnemonic (D21), assumption 13. -/
def execOra (m : AddrMode) (s : State) : Host.Outcome State Fault Refusal :=
  .next (accumulate (fun a v => a ||| v) m s)

/-- EOR: A <- A ^ v (41_logical R122). The Boolean operation is PRESUMED from the mnemonic (D21), assumption 13. -/
def execEor (m : AddrMode) (s : State) : Host.Outcome State Fault Refusal :=
  .next (accumulate (fun a v => a ^^^ v) m s)

/-- What an undefined opcode byte does: a one-byte no-op, or the decode fault of the strict variant
(48_flag_nop R198). The pc is `pc_h` already. -/
def undefinedOpcode (strict : Bool) (opc : Byte) (s : State) : Host.Outcome State Fault Refusal :=
  if strict then .fault (.decodeFault opc) else .next s

/-- The opcode byte of BIT in a mode, for the fault of the strict variant (41_logical R123). -/
def bitOpcode : AddrMode → Byte
  | .abs _ => 0x2C
  | .imm _ | .zp _ | .zpx _ | .zpy _ | .acc | .absx _ | .absy _ | .indx _ | .indy _ => 0x24

/-- The state after bytes 0x24 and 0x2C under each value of `BIT_POLICY`: the bit test, or a one-byte no-op that
leaves the operand bytes to be decoded next (41_logical R123). -/
def bitState (policy : BitPolicy) (m : AddrMode) (s : State) : State :=
  match policy with
  | .standard => (s.setP (bitFlags s.p s.a (operand m s))).advance (nbytes m)
  | .undefinedNop => s

/-- BIT for given parameters: an undefined opcode byte of the strict variant faults (48_flag_nop R198), anything else
has a next state (41_logical R123). -/
def bitTest (strict : Bool) (policy : BitPolicy) (m : AddrMode) (s : State) : Host.Outcome State Fault Refusal :=
  if strict && decide (policy = .undefinedNop) then .fault (.decodeFault (bitOpcode m)) else .next (bitState policy m s)

/-- BIT under the open `BIT_POLICY` (41_logical R123). DESIGN CHOICE, assumption 3, safe. -/
def execBit (m : AddrMode) (s : State) : Host.Outcome State Fault Refusal :=
  bitTest Config.strictDecode Config.bitPolicy m s

end Sys2Proof.Machine
end

