-- ==== Sys2Proof/Machine/FlagNop.lean ====
section
/-! DEFINITION. Flag writes, the no-op and the undefined opcode bytes: SEC, CLC, SEI, CLI, SED, CLD, CLV, NOP, UNDEFINED
(48_flag_nop). Each has no operand byte, so pc stays `pc_h`. -/

namespace Sys2Proof.Machine

/-- SEC: P.C <- 1 (48_flag_nop R190; assumption 13). -/
def execSec (s : State) : Host.Outcome State Fault Refusal :=
  .next (s.putFlag .c true)

/-- CLC: P.C <- 0 (48_flag_nop R191; assumption 13). -/
def execClc (s : State) : Host.Outcome State Fault Refusal :=
  .next (s.putFlag .c false)

/-- SEI: P.I <- 1 (48_flag_nop R192; assumption 13). -/
def execSei (s : State) : Host.Outcome State Fault Refusal :=
  .next (s.putFlag .i true)

/-- CLI: P.I <- 0 (48_flag_nop R193; assumption 13). -/
def execCli (s : State) : Host.Outcome State Fault Refusal :=
  .next (s.putFlag .i false)

/-- SED: P.D <- 1 (48_flag_nop R194; assumption 13). -/
def execSed (s : State) : Host.Outcome State Fault Refusal :=
  .next (s.putFlag .d true)

/-- CLD: P.D <- 0 (48_flag_nop R195; assumption 13). -/
def execCld (s : State) : Host.Outcome State Fault Refusal :=
  .next (s.putFlag .d false)

/-- CLV: P.V <- 0 (48_flag_nop R196; assumption 13). -/
def execClv (s : State) : Host.Outcome State Fault Refusal :=
  .next (s.putFlag .v false)

/-- NOP: "advances past the opcode only" (48_flag_nop R197). -/
def execNop (s : State) : Host.Outcome State Fault Refusal :=
  .next s

/-- An undefined opcode byte (48_flag_nop R198). `STRICT_DECODE` is the core contract's (D9), assumption 6. -/
def execUndefined (opc : Byte) (s : State) : Host.Outcome State Fault Refusal :=
  undefinedOpcode Config.strictDecode opc s

end Sys2Proof.Machine
end

