-- ==== Sys2Proof/Machine/IncDec.lean ====
section
/-! DEFINITION. Increment and decrement: INC, DEC, INX, INY, DEX, DEY (44_inc_dec). -/

namespace Sys2Proof.Machine

/-- One read and one write at the same address, Z and N from the result (44_inc_dec R150, R151). -/
def updateMemory (f : Byte → Byte) (m : AddrMode) (s : State) : State :=
  ((result m (f (operand m s)) s).putZN (f (operand m s))).advance (nbytes m)

/-- INC: the memory byte + 1, wrapping (44_inc_dec R150). -/
def execInc (m : AddrMode) (s : State) : Host.Outcome State Fault Refusal :=
  .next (updateMemory (fun v => v + 1) m s)

/-- DEC: the memory byte - 1, wrapping (44_inc_dec R151). -/
def execDec (m : AddrMode) (s : State) : Host.Outcome State Fault Refusal :=
  .next (updateMemory (fun v => v - 1) m s)

/-- INX: X + 1, wrapping; Z and N from it (44_inc_dec R152). -/
def execInx (s : State) : Host.Outcome State Fault Refusal :=
  .next ((s.setX (s.x + 1)).putZN (s.x + 1))

/-- INY: Y + 1, wrapping; Z and N from it (44_inc_dec R153). -/
def execIny (s : State) : Host.Outcome State Fault Refusal :=
  .next ((s.setY (s.y + 1)).putZN (s.y + 1))

/-- DEX: X - 1, wrapping; Z and N from it (44_inc_dec R154). -/
def execDex (s : State) : Host.Outcome State Fault Refusal :=
  .next ((s.setX (s.x - 1)).putZN (s.x - 1))

/-- DEY: Y - 1, wrapping; Z and N from it (44_inc_dec R155). -/
def execDey (s : State) : Host.Outcome State Fault Refusal :=
  .next ((s.setY (s.y - 1)).putZN (s.y - 1))

end Sys2Proof.Machine
end

