-- ==== Sys2Proof/Machine/Jump.lean ====
section
/-! DEFINITION. Jumps, calls, returns, the software interrupt: JMP, JSR, RTS, BRK, RTI (46_jump_call_interrupt). All five set PC
themselves, no operand byte-count is added (30_encoding R84; assumption 10). -/

namespace Sys2Proof.Machine

/-- JMP: "sets PC directly" (46_jump_call_interrupt R170). -/
def execJmp (t : JumpTarget) (s : State) : Host.Outcome State Fault Refusal :=
  .next (s.setPc (jumpAddr t s))

/-- JSR: push the address of its last byte, then jump (46_jump_call_interrupt R171). The target was read before the push
(D19), assumption 11. -/
def execJsr (target : Word) (s : State) : Host.Outcome State Fault Refusal :=
  .next ((s.push16 (s.pc + 1)).setPc target)

/-- RTS: "pops a word and sets PC to popped value + 1" (46_jump_call_interrupt R172). -/
def execRts (s : State) : Host.Outcome State Fault Refusal :=
  .next (s.pop16.2.setPc (s.pop16.1 + 1))

/-- BRK: enter the software interrupt; the pushed PC is `pc_h` (46_jump_call_interrupt R173; assumption 8). -/
def execBrk (s : State) : Host.Outcome State Fault Refusal :=
  .next (s.enterInterrupt s.pc)

/-- RTI: return from the software interrupt (46_jump_call_interrupt R174). -/
def execRti (s : State) : Host.Outcome State Fault Refusal :=
  .next s.leaveInterrupt

end Sys2Proof.Machine
end

