-- ==== Sys2Proof/Machine/LoadStore.lean ====
section
/-! DEFINITION. Load and store: LDA, LDX, LDY, STA, STX, STY (40_load_store). -/

namespace Sys2Proof.Machine

/-- LDA: A <- operand; Z and N recomputed from it (40_load_store R110). -/
def execLda (m : AddrMode) (s : State) : Host.Outcome State Fault Refusal :=
  .next (((s.setA (operand m s)).putZN (operand m s)).advance (nbytes m))

/-- LDX: X <- operand; Z and N recomputed from it (40_load_store R111). -/
def execLdx (m : AddrMode) (s : State) : Host.Outcome State Fault Refusal :=
  .next (((s.setX (operand m s)).putZN (operand m s)).advance (nbytes m))

/-- LDY: Y <- operand; Z and N recomputed from it (40_load_store R112). -/
def execLdy (m : AddrMode) (s : State) : Host.Outcome State Fault Refusal :=
  .next (((s.setY (operand m s)).putZN (operand m s)).advance (nbytes m))

/-- STA: the operand address <- A, "with no flag effect" (40_load_store R113). -/
def execSta (m : AddrMode) (s : State) : Host.Outcome State Fault Refusal :=
  .next ((result m s.a s).advance (nbytes m))

/-- STX: the operand address <- X, "with no flag effect" (40_load_store R114). -/
def execStx (m : AddrMode) (s : State) : Host.Outcome State Fault Refusal :=
  .next ((result m s.x s).advance (nbytes m))

/-- STY: the operand address <- Y, "with no flag effect" (40_load_store R115). -/
def execSty (m : AddrMode) (s : State) : Host.Outcome State Fault Refusal :=
  .next ((result m s.y s).advance (nbytes m))

end Sys2Proof.Machine
end

