-- ==== Sys2Proof/Machine/Shift.lean ====
section
/-! DEFINITION. Shift and rotate: ASL, LSR, ROL, ROR (42_shift_rotate). -/

namespace Sys2Proof.Machine

/-- Store the shifted operand, then C the evicted bit, Z and N from the result; the EA is computed once
(30_encoding R101). -/
def shiftWith (f : Byte → Bool → Byte × Bool) (m : AddrMode) (s : State) : State :=
  let r := f (operand m s) (s.flag .c)
  ((result m r.1 s).setP (shiftFlags s.p r)).advance (nbytes m)

/-- ASL: left one bit, bit 0 becomes 0 (42_shift_rotate R130). The direction is PRESUMED from the mnemonic (D21), assumption 13. -/
def execAsl (m : AddrMode) (s : State) : Host.Outcome State Fault Refusal :=
  .next (shiftWith (fun v _ => aslByte v) m s)

/-- LSR: right one bit, bit 7 becomes 0 (42_shift_rotate R131). The direction is PRESUMED from the mnemonic (D21), assumption 13. -/
def execLsr (m : AddrMode) (s : State) : Host.Outcome State Fault Refusal :=
  .next (shiftWith (fun v _ => lsrByte v) m s)

/-- ROL: rotate left through Carry (42_shift_rotate R132). The direction is PRESUMED from the mnemonic (D21), assumption 13. -/
def execRol (m : AddrMode) (s : State) : Host.Outcome State Fault Refusal :=
  .next (shiftWith rolByte m s)

/-- ROR: rotate right through Carry (42_shift_rotate R133). The direction is PRESUMED from the mnemonic (D21), assumption 13. -/
def execRor (m : AddrMode) (s : State) : Host.Outcome State Fault Refusal :=
  .next (shiftWith rorByte m s)

end Sys2Proof.Machine
end

