-- ==== Sys2Proof/Machine/StackTransfer.lean ====
section
/-! DEFINITION. Stack and register transfers: PHA, PHP, PLA, PLP, TAX, TXA, TAY, TYA, TSX, TXS (47_stack_transfer). Each has no
operand byte, so pc stays `pc_h`. -/

namespace Sys2Proof.Machine

/-- PHA: push A (47_stack_transfer R180). -/
def execPha (s : State) : Host.Outcome State Fault Refusal :=
  .next (s.push8 s.a)

/-- PHP: push P exactly as it stands (47_stack_transfer R181; assumption 9). -/
def execPhp (s : State) : Host.Outcome State Fault Refusal :=
  .next (s.push8 s.p)

/-- PLA: A <- pop; Z and N recomputed (47_stack_transfer R182). -/
def execPla (s : State) : Host.Outcome State Fault Refusal :=
  .next ((s.pop8.2.setA s.pop8.1).putZN s.pop8.1)

/-- PLP: P <- pop, all eight bits (47_stack_transfer R183; assumption 9). -/
def execPlp (s : State) : Host.Outcome State Fault Refusal :=
  .next (s.pop8.2.setP s.pop8.1)

/-- TAX: X <- A; Z and N from it (47_stack_transfer R184; assumption 13). -/
def execTax (s : State) : Host.Outcome State Fault Refusal :=
  .next ((s.setX s.a).putZN s.a)

/-- TXA: A <- X; Z and N from it (47_stack_transfer R185; assumption 13). -/
def execTxa (s : State) : Host.Outcome State Fault Refusal :=
  .next ((s.setA s.x).putZN s.x)

/-- TAY: Y <- A; Z and N from it (47_stack_transfer R186; assumption 13). -/
def execTay (s : State) : Host.Outcome State Fault Refusal :=
  .next ((s.setY s.a).putZN s.a)

/-- TYA: A <- Y; Z and N from it (47_stack_transfer R187; assumption 13). -/
def execTya (s : State) : Host.Outcome State Fault Refusal :=
  .next ((s.setA s.y).putZN s.y)

/-- TSX: X <- S; Z and N from it (47_stack_transfer R188; assumption 13). -/
def execTsx (s : State) : Host.Outcome State Fault Refusal :=
  .next ((s.setX s.sp).putZN s.sp)

/-- TXS: S <- X "with no flag effect" (47_stack_transfer R189; assumption 13). -/
def execTxs (s : State) : Host.Outcome State Fault Refusal :=
  .next (s.setSp s.x)

end Sys2Proof.Machine
end

