-- ==== Sys2Proof/Syntax.lean ====
section
/-! DEFINITION. The instructions: one constructor per mnemonic of spec/opcode_table.json; the table's rows of one
mnemonic are the values of its operand argument (assumption 17). -/

namespace Sys2Proof

/-- An instruction with its operand bytes (30_encoding R80, R88). -/
inductive Instr where
  -- load and store, 40_load_store
  | lda (m : AddrMode)
  | ldx (m : AddrMode)
  | ldy (m : AddrMode)
  | sta (m : AddrMode)
  | stx (m : AddrMode)
  | sty (m : AddrMode)
  -- logical, 41_logical
  | and (m : AddrMode)
  | ora (m : AddrMode)
  | eor (m : AddrMode)
  | bit (m : AddrMode)
  -- shift and rotate, 42_shift_rotate
  | asl (m : AddrMode)
  | lsr (m : AddrMode)
  | rol (m : AddrMode)
  | ror (m : AddrMode)
  -- compare, 43_compare
  | cmp (m : AddrMode)
  | cpx (m : AddrMode)
  | cpy (m : AddrMode)
  -- increment and decrement, 44_inc_dec
  | inc (m : AddrMode)
  | dec (m : AddrMode)
  | inx
  | iny
  | dex
  | dey
  -- conditional branches with their offset byte, 45_branch
  | bcc (off : Byte)
  | bcs (off : Byte)
  | beq (off : Byte)
  | bne (off : Byte)
  | bmi (off : Byte)
  | bpl (off : Byte)
  | bvc (off : Byte)
  | bvs (off : Byte)
  -- jumps, calls, software interrupt, 46_jump_call_interrupt
  | jmp (t : JumpTarget)
  | jsr (target : Word)
  | rts
  | brk
  | rti
  -- stack and register transfers, 47_stack_transfer
  | pha
  | php
  | pla
  | plp
  | tax
  | txa
  | tay
  | tya
  | tsx
  | txs
  -- flag writes, no-op and the undefined opcode bytes, 48_flag_nop
  | sec
  | clc
  | sei
  | cli
  | sed
  | cld
  | clv
  | nop
  | undefined (opc : Byte)
  -- add and subtract with carry, 49_add_subtract
  | adc (m : AddrMode)
  | sbc (m : AddrMode)
  deriving DecidableEq, Repr

end Sys2Proof
end

