-- ==== Sys2Proof/Machine/Dispatch.lean ====
section
/-! DEFINITION. One arm per instruction: the handler half of the InstructionTable (30_encoding R83). The state's pc is
`pc_h`, the address of the opcode byte plus 1 (assumption 16). -/

namespace Sys2Proof.Machine

def exec (i : Instr) (s : State) : Host.Outcome State Fault Refusal :=
  match i with
  | .lda m => Sys2Proof.Machine.execLda m s
  | .ldx m => Sys2Proof.Machine.execLdx m s
  | .ldy m => Sys2Proof.Machine.execLdy m s
  | .sta m => Sys2Proof.Machine.execSta m s
  | .stx m => Sys2Proof.Machine.execStx m s
  | .sty m => Sys2Proof.Machine.execSty m s
  | .and m => Sys2Proof.Machine.execAnd m s
  | .ora m => Sys2Proof.Machine.execOra m s
  | .eor m => Sys2Proof.Machine.execEor m s
  | .bit m => Sys2Proof.Machine.execBit m s
  | .asl m => Sys2Proof.Machine.execAsl m s
  | .lsr m => Sys2Proof.Machine.execLsr m s
  | .rol m => Sys2Proof.Machine.execRol m s
  | .ror m => Sys2Proof.Machine.execRor m s
  | .cmp m => Sys2Proof.Machine.execCmp m s
  | .cpx m => Sys2Proof.Machine.execCpx m s
  | .cpy m => Sys2Proof.Machine.execCpy m s
  | .inc m => Sys2Proof.Machine.execInc m s
  | .dec m => Sys2Proof.Machine.execDec m s
  | .inx => Sys2Proof.Machine.execInx s
  | .iny => Sys2Proof.Machine.execIny s
  | .dex => Sys2Proof.Machine.execDex s
  | .dey => Sys2Proof.Machine.execDey s
  | .bcc off => Sys2Proof.Machine.execBcc off s
  | .bcs off => Sys2Proof.Machine.execBcs off s
  | .beq off => Sys2Proof.Machine.execBeq off s
  | .bne off => Sys2Proof.Machine.execBne off s
  | .bmi off => Sys2Proof.Machine.execBmi off s
  | .bpl off => Sys2Proof.Machine.execBpl off s
  | .bvc off => Sys2Proof.Machine.execBvc off s
  | .bvs off => Sys2Proof.Machine.execBvs off s
  | .jmp t => Sys2Proof.Machine.execJmp t s
  | .jsr target => Sys2Proof.Machine.execJsr target s
  | .rts => Sys2Proof.Machine.execRts s
  | .brk => Sys2Proof.Machine.execBrk s
  | .rti => Sys2Proof.Machine.execRti s
  | .pha => Sys2Proof.Machine.execPha s
  | .php => Sys2Proof.Machine.execPhp s
  | .pla => Sys2Proof.Machine.execPla s
  | .plp => Sys2Proof.Machine.execPlp s
  | .tax => Sys2Proof.Machine.execTax s
  | .txa => Sys2Proof.Machine.execTxa s
  | .tay => Sys2Proof.Machine.execTay s
  | .tya => Sys2Proof.Machine.execTya s
  | .tsx => Sys2Proof.Machine.execTsx s
  | .txs => Sys2Proof.Machine.execTxs s
  | .sec => Sys2Proof.Machine.execSec s
  | .clc => Sys2Proof.Machine.execClc s
  | .sei => Sys2Proof.Machine.execSei s
  | .cli => Sys2Proof.Machine.execCli s
  | .sed => Sys2Proof.Machine.execSed s
  | .cld => Sys2Proof.Machine.execCld s
  | .clv => Sys2Proof.Machine.execClv s
  | .nop => Sys2Proof.Machine.execNop s
  | .undefined opc => Sys2Proof.Machine.execUndefined opc s
  | .adc m => Sys2Proof.Machine.execAdc m s
  | .sbc m => Sys2Proof.Machine.execSbc m s

end Sys2Proof.Machine
end

