-- ==== Sys2Proof/WellFormed.lean ====
section
/-! DEFINITION. Which operand forms each mnemonic takes, from the encodings line of its rule (40 to 49) and the
table of 30_encoding R88; decoding yields well-formed instructions only. -/

namespace Sys2Proof

/-- imm, zp, zpx, abs, absx, absy, indx, indy: LDA, AND, ORA, EOR, CMP, ADC, SBC. -/
def AddrMode.isAluForm : AddrMode → Bool
  | .imm _ | .zp _ | .zpx _ | .abs _ | .absx _ | .absy _ | .indx _ | .indy _ => true
  | .zpy _ | .acc => false

/-- zp, zpx, abs, absx, absy, indx, indy: STA, which has no Immediate form (40_load_store R113). -/
def AddrMode.isStaForm : AddrMode → Bool
  | .zp _ | .zpx _ | .abs _ | .absx _ | .absy _ | .indx _ | .indy _ => true
  | .imm _ | .zpy _ | .acc => false

/-- imm, zp, zpy, abs, absy: LDX (40_load_store R111). -/
def AddrMode.isLdxForm : AddrMode → Bool
  | .imm _ | .zp _ | .zpy _ | .abs _ | .absy _ => true
  | .zpx _ | .acc | .absx _ | .indx _ | .indy _ => false

/-- imm, zp, zpx, abs, absx: LDY (40_load_store R112). -/
def AddrMode.isLdyForm : AddrMode → Bool
  | .imm _ | .zp _ | .zpx _ | .abs _ | .absx _ => true
  | .zpy _ | .acc | .absy _ | .indx _ | .indy _ => false

/-- zp, zpy, abs: STX (40_load_store R114). -/
def AddrMode.isStxForm : AddrMode → Bool
  | .zp _ | .zpy _ | .abs _ => true
  | .imm _ | .zpx _ | .acc | .absx _ | .absy _ | .indx _ | .indy _ => false

/-- zp, zpx, abs: STY (40_load_store R115). -/
def AddrMode.isStyForm : AddrMode → Bool
  | .zp _ | .zpx _ | .abs _ => true
  | .imm _ | .zpy _ | .acc | .absx _ | .absy _ | .indx _ | .indy _ => false

/-- zp, abs: BIT (41_logical R123). -/
def AddrMode.isBitForm : AddrMode → Bool
  | .zp _ | .abs _ => true
  | .imm _ | .zpx _ | .zpy _ | .acc | .absx _ | .absy _ | .indx _ | .indy _ => false

/-- acc, zp, zpx, abs, absx: ASL, LSR, ROL, ROR (42_shift_rotate). -/
def AddrMode.isShiftForm : AddrMode → Bool
  | .acc | .zp _ | .zpx _ | .abs _ | .absx _ => true
  | .imm _ | .zpy _ | .absy _ | .indx _ | .indy _ => false

/-- imm, zp, abs: CPX, CPY (43_compare R142, R143). -/
def AddrMode.isCpxForm : AddrMode → Bool
  | .imm _ | .zp _ | .abs _ => true
  | .zpx _ | .zpy _ | .acc | .absx _ | .absy _ | .indx _ | .indy _ => false

/-- zp, zpx, abs, absx: INC, DEC, which have no accumulator form (44_inc_dec R150, R151). -/
def AddrMode.isIncForm : AddrMode → Bool
  | .zp _ | .zpx _ | .abs _ | .absx _ => true
  | .imm _ | .zpy _ | .acc | .absy _ | .indx _ | .indy _ => false

/-- The 105 undefined opcode bytes of 48_flag_nop R199. -/
def undefinedBytes : List Byte :=
  [0x02, 0x03, 0x04, 0x07, 0x0B, 0x0C, 0x0F] ++
  [0x12, 0x13, 0x14, 0x17, 0x1A, 0x1B, 0x1C, 0x1F] ++
  [0x22, 0x23, 0x27, 0x2B, 0x2F] ++
  [0x32, 0x33, 0x34, 0x37, 0x3A, 0x3B, 0x3C, 0x3F] ++
  [0x42, 0x43, 0x44, 0x47, 0x4B, 0x4F] ++
  [0x52, 0x53, 0x54, 0x57, 0x5A, 0x5B, 0x5C, 0x5F] ++
  [0x62, 0x63, 0x64, 0x67, 0x6B, 0x6F] ++
  [0x72, 0x73, 0x74, 0x77, 0x7A, 0x7B, 0x7C, 0x7F] ++
  [0x80, 0x82, 0x83, 0x87, 0x89, 0x8B, 0x8F] ++
  [0x92, 0x93, 0x97, 0x9B, 0x9C, 0x9E, 0x9F] ++
  [0xA3, 0xA7, 0xAB, 0xAF] ++
  [0xB2, 0xB3, 0xB7, 0xBB, 0xBF] ++
  [0xC2, 0xC3, 0xC7, 0xCB, 0xCF] ++
  [0xD2, 0xD3, 0xD4, 0xD7, 0xDA, 0xDB, 0xDC, 0xDF] ++
  [0xE2, 0xE3, 0xE7, 0xEB, 0xEF] ++
  [0xF2, 0xF3, 0xF4, 0xF7, 0xFA, 0xFB, 0xFC, 0xFF]

/-- The operand form is one the opcode map pairs with the mnemonic (30_encoding R88). -/
def Instr.wellFormed : Instr → Bool
  | .lda m | .and m | .ora m | .eor m | .cmp m | .adc m | .sbc m => m.isAluForm
  | .sta m => m.isStaForm
  | .ldx m => m.isLdxForm
  | .ldy m => m.isLdyForm
  | .stx m => m.isStxForm
  | .sty m => m.isStyForm
  | .bit m => m.isBitForm
  | .asl m | .lsr m | .rol m | .ror m => m.isShiftForm
  | .cpx m | .cpy m => m.isCpxForm
  | .inc m | .dec m => m.isIncForm
  | .undefined opc => undefinedBytes.contains opc
  | .inx | .iny | .dex | .dey
  | .bcc _ | .bcs _ | .beq _ | .bne _ | .bmi _ | .bpl _ | .bvc _ | .bvs _
  | .jmp _ | .jsr _ | .rts | .brk | .rti
  | .pha | .php | .pla | .plp | .tax | .txa | .tay | .tya | .tsx | .txs
  | .sec | .clc | .sei | .cli | .sed | .cld | .clv | .nop => true

end Sys2Proof
end

