-- ==== Sys2Proof/Decode.lean ====
section
/-! DEFINITION. The decoder, total on any three bytes (30_encoding R80 to R86, R103), the reader of a byte stream,
and after them the encoder. The byte values are the standard map (30_encoding R88): PRESUMED, assumption 2, unsafe. -/

namespace Sys2Proof

open Sys2Proof.Machine (loByte hiByte wordOf)

/-! ## The opcode map -/

/-- One cell of the map: an undefined byte, or an instruction of format F1, F2 or F3 (30_encoding R80) waiting for
its operand. -/
inductive Slot where
  | undef
  | f1 (i : Instr)
  | f2 (f : Byte → Instr)
  | f3 (f : Word → Instr)

/-- Immediate. -/
def Slot.imm (f : AddrMode → Instr) : Slot := .f2 (fun b => f (.imm b))
/-- ZeroPage. -/
def Slot.zp (f : AddrMode → Instr) : Slot := .f2 (fun b => f (.zp b))
/-- ZeroPageX. -/
def Slot.zpx (f : AddrMode → Instr) : Slot := .f2 (fun b => f (.zpx b))
/-- ZeroPageY. -/
def Slot.zpy (f : AddrMode → Instr) : Slot := .f2 (fun b => f (.zpy b))
/-- Accumulator. -/
def Slot.acc (f : AddrMode → Instr) : Slot := .f1 (f .acc)
/-- Absolute. -/
def Slot.abs (f : AddrMode → Instr) : Slot := .f3 (fun w => f (.abs w))
/-- AbsoluteX. -/
def Slot.absx (f : AddrMode → Instr) : Slot := .f3 (fun w => f (.absx w))
/-- AbsoluteY. -/
def Slot.absy (f : AddrMode → Instr) : Slot := .f3 (fun w => f (.absy w))
/-- IndirectX. -/
def Slot.indx (f : AddrMode → Instr) : Slot := .f2 (fun b => f (.indx b))
/-- IndirectY. -/
def Slot.indy (f : AddrMode → Instr) : Slot := .f2 (fun b => f (.indy b))

/-- Row 0x of the opcode map (30_encoding R88). -/
def opcodeRow0 : List Slot :=
  [.f1 .brk, .indx .ora, .undef, .undef, .undef, .zp .ora, .zp .asl, .undef,
   .f1 .php, .imm .ora, .acc .asl, .undef, .undef, .abs .ora, .abs .asl, .undef]

/-- Row 1x of the opcode map (30_encoding R88). -/
def opcodeRow1 : List Slot :=
  [.f2 .bpl, .indy .ora, .undef, .undef, .undef, .zpx .ora, .zpx .asl, .undef,
   .f1 .clc, .absy .ora, .undef, .undef, .undef, .absx .ora, .absx .asl, .undef]

/-- Row 2x of the opcode map (30_encoding R88). -/
def opcodeRow2 : List Slot :=
  [.f3 .jsr, .indx .and, .undef, .undef, .zp .bit, .zp .and, .zp .rol, .undef,
   .f1 .plp, .imm .and, .acc .rol, .undef, .abs .bit, .abs .and, .abs .rol, .undef]

/-- Row 3x of the opcode map (30_encoding R88). -/
def opcodeRow3 : List Slot :=
  [.f2 .bmi, .indy .and, .undef, .undef, .undef, .zpx .and, .zpx .rol, .undef,
   .f1 .sec, .absy .and, .undef, .undef, .undef, .absx .and, .absx .rol, .undef]

/-- Row 4x of the opcode map (30_encoding R88). -/
def opcodeRow4 : List Slot :=
  [.f1 .rti, .indx .eor, .undef, .undef, .undef, .zp .eor, .zp .lsr, .undef,
   .f1 .pha, .imm .eor, .acc .lsr, .undef, .f3 (fun w => .jmp (.abs w)), .abs .eor, .abs .lsr, .undef]

/-- Row 5x of the opcode map (30_encoding R88). -/
def opcodeRow5 : List Slot :=
  [.f2 .bvc, .indy .eor, .undef, .undef, .undef, .zpx .eor, .zpx .lsr, .undef,
   .f1 .cli, .absy .eor, .undef, .undef, .undef, .absx .eor, .absx .lsr, .undef]

/-- Row 6x of the opcode map (30_encoding R88). -/
def opcodeRow6 : List Slot :=
  [.f1 .rts, .indx .adc, .undef, .undef, .undef, .zp .adc, .zp .ror, .undef,
   .f1 .pla, .imm .adc, .acc .ror, .undef, .f3 (fun w => .jmp (.ind w)), .abs .adc, .abs .ror, .undef]

/-- Row 7x of the opcode map (30_encoding R88). -/
def opcodeRow7 : List Slot :=
  [.f2 .bvs, .indy .adc, .undef, .undef, .undef, .zpx .adc, .zpx .ror, .undef,
   .f1 .sei, .absy .adc, .undef, .undef, .undef, .absx .adc, .absx .ror, .undef]

/-- Row 8x of the opcode map (30_encoding R88). -/
def opcodeRow8 : List Slot :=
  [.undef, .indx .sta, .undef, .undef, .zp .sty, .zp .sta, .zp .stx, .undef,
   .f1 .dey, .undef, .f1 .txa, .undef, .abs .sty, .abs .sta, .abs .stx, .undef]

/-- Row 9x of the opcode map (30_encoding R88). -/
def opcodeRow9 : List Slot :=
  [.f2 .bcc, .indy .sta, .undef, .undef, .zpx .sty, .zpx .sta, .zpy .stx, .undef,
   .f1 .tya, .absy .sta, .f1 .txs, .undef, .undef, .absx .sta, .undef, .undef]

/-- Row Ax of the opcode map (30_encoding R88). -/
def opcodeRowA : List Slot :=
  [.imm .ldy, .indx .lda, .imm .ldx, .undef, .zp .ldy, .zp .lda, .zp .ldx, .undef,
   .f1 .tay, .imm .lda, .f1 .tax, .undef, .abs .ldy, .abs .lda, .abs .ldx, .undef]

/-- Row Bx of the opcode map (30_encoding R88). -/
def opcodeRowB : List Slot :=
  [.f2 .bcs, .indy .lda, .undef, .undef, .zpx .ldy, .zpx .lda, .zpy .ldx, .undef,
   .f1 .clv, .absy .lda, .f1 .tsx, .undef, .absx .ldy, .absx .lda, .absy .ldx, .undef]

/-- Row Cx of the opcode map (30_encoding R88). -/
def opcodeRowC : List Slot :=
  [.imm .cpy, .indx .cmp, .undef, .undef, .zp .cpy, .zp .cmp, .zp .dec, .undef,
   .f1 .iny, .imm .cmp, .f1 .dex, .undef, .abs .cpy, .abs .cmp, .abs .dec, .undef]

/-- Row Dx of the opcode map (30_encoding R88). -/
def opcodeRowD : List Slot :=
  [.f2 .bne, .indy .cmp, .undef, .undef, .undef, .zpx .cmp, .zpx .dec, .undef,
   .f1 .cld, .absy .cmp, .undef, .undef, .undef, .absx .cmp, .absx .dec, .undef]

/-- Row Ex of the opcode map (30_encoding R88). -/
def opcodeRowE : List Slot :=
  [.imm .cpx, .indx .sbc, .undef, .undef, .zp .cpx, .zp .sbc, .zp .inc, .undef,
   .f1 .inx, .imm .sbc, .f1 .nop, .undef, .abs .cpx, .abs .sbc, .abs .inc, .undef]

/-- Row Fx of the opcode map (30_encoding R88). -/
def opcodeRowF : List Slot :=
  [.f2 .beq, .indy .sbc, .undef, .undef, .undef, .zpx .sbc, .zpx .inc, .undef,
   .f1 .sed, .absy .sbc, .undef, .undef, .undef, .absx .sbc, .absx .inc, .undef]

/-- "A flat 256-entry table, one slot per opcode byte" (30_encoding R81), by high and low digit. -/
def opcodeMap : List (List Slot) :=
  [opcodeRow0, opcodeRow1, opcodeRow2, opcodeRow3, opcodeRow4, opcodeRow5, opcodeRow6, opcodeRow7] ++
  [opcodeRow8, opcodeRow9, opcodeRowA, opcodeRowB, opcodeRowC, opcodeRowD, opcodeRowE, opcodeRowF]

/-- The table entry of an opcode byte. -/
def slotOf (opc : Byte) : Slot :=
  (opcodeMap.getD (opc.toNat / 16) []).getD (opc.toNat % 16) .undef

/-! ## Decoding -/

/-- The instruction length, a function of the opcode byte alone (30_encoding R82). -/
def Slot.length : Slot → Nat
  | .undef | .f1 _ => 1
  | .f2 _ => 2
  | .f3 _ => 3

/-- The instruction whose opcode byte is `b0`, with the two bytes after it; the operand word has its low byte first
(30_encoding R86). -/
def decodeBytes (b0 b1 b2 : Byte) : Instr :=
  match slotOf b0 with
  | .undef => .undefined b0
  | .f1 i => i
  | .f2 f => f b1
  | .f3 f => f (wordOf b2 b1)

/-- Why a byte stream holds no instruction: only because it ends too early (30_encoding R85). -/
inductive DecodeError where
  /-- The stream is empty. -/
  | noOpcode
  /-- The stream ends before the operand bytes of this opcode. -/
  | missingOperand (opc : Byte)
  deriving DecidableEq, Repr

/-- The first instruction of a byte stream and the bytes after it. -/
def decode : List Byte → Except DecodeError (Instr × List Byte)
  | [] => .error .noOpcode
  | b0 :: rest =>
    if (slotOf b0).length ≤ rest.length + 1 then
      .ok (decodeBytes b0 (rest.getD 0 0) (rest.getD 1 0), rest.drop ((slotOf b0).length - 1))
    else .error (.missingOperand b0)

/-- The instruction the decoder reads from an instruction whose bits are `w`, byte 0 the least significant; every bit
at or above `nbits` is 0. -/
def decodeTableWord (nbits w : Nat) : Option Instr :=
  let v := w % 2 ^ nbits
  match decode [BitVec.ofNat 8 v, BitVec.ofNat 8 (v / 256), BitVec.ofNat 8 (v / 65536)] with
  | .ok (i, _) => some i
  | .error _ => none

/-! ## Encoding -/

/-- The opcode bytes of one mnemonic, by addressing mode: one line of the by-mnemonic table of 30_encoding R88. -/
structure ModeBytes where
  imm : Option Byte := none
  zp : Option Byte := none
  zpx : Option Byte := none
  zpy : Option Byte := none
  acc : Option Byte := none
  abs : Option Byte := none
  absx : Option Byte := none
  absy : Option Byte := none
  indx : Option Byte := none
  indy : Option Byte := none

/-- The mode's opcode byte in such a line. -/
def AddrMode.pick (m : AddrMode) (t : ModeBytes) : Option Byte :=
  match m with
  | .imm _ => t.imm
  | .zp _ => t.zp
  | .zpx _ => t.zpx
  | .zpy _ => t.zpy
  | .acc => t.acc
  | .abs _ => t.abs
  | .absx _ => t.absx
  | .absy _ => t.absy
  | .indx _ => t.indx
  | .indy _ => t.indy

/-- The opcode byte of an instruction; none for a form the map does not pair (30_encoding R88, by mnemonic). -/
def opcodeOf : Instr → Option Byte
  | .lda m => m.pick { imm := some 0xA9, zp := some 0xA5, zpx := some 0xB5, abs := some 0xAD, absx := some 0xBD, absy := some 0xB9, indx := some 0xA1, indy := some 0xB1 }
  | .ldx m => m.pick { imm := some 0xA2, zp := some 0xA6, zpy := some 0xB6, abs := some 0xAE, absy := some 0xBE }
  | .ldy m => m.pick { imm := some 0xA0, zp := some 0xA4, zpx := some 0xB4, abs := some 0xAC, absx := some 0xBC }
  | .sta m => m.pick { zp := some 0x85, zpx := some 0x95, abs := some 0x8D, absx := some 0x9D, absy := some 0x99, indx := some 0x81, indy := some 0x91 }
  | .stx m => m.pick { zp := some 0x86, zpy := some 0x96, abs := some 0x8E }
  | .sty m => m.pick { zp := some 0x84, zpx := some 0x94, abs := some 0x8C }
  | .and m => m.pick { imm := some 0x29, zp := some 0x25, zpx := some 0x35, abs := some 0x2D, absx := some 0x3D, absy := some 0x39, indx := some 0x21, indy := some 0x31 }
  | .ora m => m.pick { imm := some 0x09, zp := some 0x05, zpx := some 0x15, abs := some 0x0D, absx := some 0x1D, absy := some 0x19, indx := some 0x01, indy := some 0x11 }
  | .eor m => m.pick { imm := some 0x49, zp := some 0x45, zpx := some 0x55, abs := some 0x4D, absx := some 0x5D, absy := some 0x59, indx := some 0x41, indy := some 0x51 }
  | .bit m => m.pick { zp := some 0x24, abs := some 0x2C }
  | .asl m => m.pick { acc := some 0x0A, zp := some 0x06, zpx := some 0x16, abs := some 0x0E, absx := some 0x1E }
  | .lsr m => m.pick { acc := some 0x4A, zp := some 0x46, zpx := some 0x56, abs := some 0x4E, absx := some 0x5E }
  | .rol m => m.pick { acc := some 0x2A, zp := some 0x26, zpx := some 0x36, abs := some 0x2E, absx := some 0x3E }
  | .ror m => m.pick { acc := some 0x6A, zp := some 0x66, zpx := some 0x76, abs := some 0x6E, absx := some 0x7E }
  | .cmp m => m.pick { imm := some 0xC9, zp := some 0xC5, zpx := some 0xD5, abs := some 0xCD, absx := some 0xDD, absy := some 0xD9, indx := some 0xC1, indy := some 0xD1 }
  | .cpx m => m.pick { imm := some 0xE0, zp := some 0xE4, abs := some 0xEC }
  | .cpy m => m.pick { imm := some 0xC0, zp := some 0xC4, abs := some 0xCC }
  | .inc m => m.pick { zp := some 0xE6, zpx := some 0xF6, abs := some 0xEE, absx := some 0xFE }
  | .dec m => m.pick { zp := some 0xC6, zpx := some 0xD6, abs := some 0xCE, absx := some 0xDE }
  | .inx => some 0xE8
  | .iny => some 0xC8
  | .dex => some 0xCA
  | .dey => some 0x88
  | .bcc _ => some 0x90
  | .bcs _ => some 0xB0
  | .beq _ => some 0xF0
  | .bne _ => some 0xD0
  | .bmi _ => some 0x30
  | .bpl _ => some 0x10
  | .bvc _ => some 0x50
  | .bvs _ => some 0x70
  | .jmp (.abs _) => some 0x4C
  | .jmp (.ind _) => some 0x6C
  | .jsr _ => some 0x20
  | .rts => some 0x60
  | .brk => some 0x00
  | .rti => some 0x40
  | .pha => some 0x48
  | .php => some 0x08
  | .pla => some 0x68
  | .plp => some 0x28
  | .tax => some 0xAA
  | .txa => some 0x8A
  | .tay => some 0xA8
  | .tya => some 0x98
  | .tsx => some 0xBA
  | .txs => some 0x9A
  | .sec => some 0x38
  | .clc => some 0x18
  | .sei => some 0x78
  | .cli => some 0x58
  | .sed => some 0xF8
  | .cld => some 0xD8
  | .clv => some 0xB8
  | .nop => some 0xEA
  | .undefined opc => if undefinedBytes.contains opc then some opc else none
  | .adc m => m.pick { imm := some 0x69, zp := some 0x65, zpx := some 0x75, abs := some 0x6D, absx := some 0x7D, absy := some 0x79, indx := some 0x61, indy := some 0x71 }
  | .sbc m => m.pick { imm := some 0xE9, zp := some 0xE5, zpx := some 0xF5, abs := some 0xED, absx := some 0xFD, absy := some 0xF9, indx := some 0xE1, indy := some 0xF1 }

/-- The operand bytes of a mode, a word's low byte first (30_encoding R86). -/
def AddrMode.operandBytes : AddrMode → List Byte
  | .imm b | .zp b | .zpx b | .zpy b | .indx b | .indy b => [b]
  | .abs w | .absx w | .absy w => [loByte w, hiByte w]
  | .acc => []

/-- The operand bytes of an instruction. -/
def operandBytes : Instr → List Byte
  | .lda m | .ldx m | .ldy m | .sta m | .stx m | .sty m | .and m | .ora m | .eor m | .bit m | .asl m | .lsr m
  | .rol m | .ror m | .cmp m | .cpx m | .cpy m | .inc m | .dec m | .adc m | .sbc m => m.operandBytes
  | .bcc off | .bcs off | .beq off | .bne off | .bmi off | .bpl off | .bvc off | .bvs off => [off]
  | .jmp (.abs w) | .jmp (.ind w) | .jsr w => [loByte w, hiByte w]
  | .inx | .iny | .dex | .dey | .rts | .brk | .rti | .pha | .php | .pla | .plp | .tax
  | .txa | .tay | .tya | .tsx | .txs | .sec | .clc | .sei | .cli | .sed | .cld | .clv | .nop | .undefined _ => []

/-- The bytes of an instruction in memory order; none for an ill-formed one. -/
def encode (i : Instr) : Option (List Byte) := (opcodeOf i).map (fun opc => opc :: operandBytes i)

end Sys2Proof
end

