-- ==== Sys2Proof/Machine/Fetch.lean ====
section
/-! DEFINITION. Fetching and decoding at PC (30_encoding R83, R86; 20_memory R67). -/

namespace Sys2Proof.Machine

/-- The instruction at PC: the opcode byte and the two bytes after it, addresses wrapping (30_encoding R80). Reading
a byte the instruction does not use changes nothing (20_memory R64). -/
def fetch (s : State) : Instr := decodeBytes (s.read s.pc) (s.read (s.pc + 1)) (s.read (s.pc + 2))

/-- "advances PC past it": the state the handler starts in, its pc being `pc_h` (30_encoding R83). -/
def State.pastOpcode (s : State) : State := s.setPc (s.pc + 1)

/-- Three instruction bytes placed at PC. -/
def State.placeAtPc (s : State) (b0 b1 b2 : Byte) : State := s.writeBytes s.pc [b0, b1, b2]

end Sys2Proof.Machine
end

