-- ==== Sys2Proof/Machine/Step.lean ====
section
/-! DEFINITION. One step of the machine (30_encoding R83, 70_reset_and_hazards R233). -/

namespace Sys2Proof.Machine

/-- "exactly one fetch-decode-execute cycle" (30_encoding R83). -/
def step (s : State) : Host.Outcome State Fault Refusal := exec (fetch s) s.pastOpcode

/-- `s` with the instruction whose bits are `w` (byte 0 the least significant, the bits at and above `nbits` zero)
stored where `step` fetches next; it stands for the host's load of a program (assumption 18). -/
def State.withFetchWord (s : State) (nbits w : Nat) : State :=
  let v := w % 2 ^ nbits
  s.placeAtPc (BitVec.ofNat 8 v) (BitVec.ofNat 8 (v / 256)) (BitVec.ofNat 8 (v / 65536))

end Sys2Proof.Machine
end

