-- ==== Sys2Proof/Machine/HostOps.lean ====
section
/-! DEFINITION. What the host can do between steps (70_reset_and_hazards R231, R233, R236). -/

namespace Sys2Proof.Machine

/-- `load_program(bytes)`: copy the image to 0x8000 upward; a longer image than 32768 bytes is refused
(70_reset_and_hazards R231). DESIGN CHOICE of the spec (D14), assumption 15, safe. -/
def loadProgram (bytes : List Byte) (s : State) : Host.Outcome State Fault Refusal :=
  if bytes.length ≤ Config.maxImage then .next (s.writeBytes Config.programBase bytes)
  else .refused (.imageTooLong bytes.length)

/-- The host's interactions that can change the machine (70_reset_and_hazards R236); reading memory and inspecting
registers are `State.read`, `State.read16` and the fields of `State`. -/
inductive HostAction where
  | load (bytes : List Byte)
  | step
  | writeByte (addr : Word) (v : Byte)
  | writeWord (addr : Word) (v : Word)
  | pushByte (v : Byte)
  | popByte
  | pushWord (v : Word)
  | popWord
  deriving DecidableEq, Repr

/-- The effect of one host interaction; the value a pop returns to the host is `s.pop8.1` or `s.pop16.1`. -/
def hostAct (act : HostAction) (s : State) : Host.Outcome State Fault Refusal :=
  match act with
  | .load bytes => loadProgram bytes s
  | .step => step s
  | .writeByte addr v => .next (s.write addr v)
  | .writeWord addr v => .next (s.write16 addr v)
  | .pushByte v => .next (s.push8 v)
  | .popByte => .next s.pop8.2
  | .pushWord v => .next (s.push16 v)
  | .popWord => .next s.pop16.2

end Sys2Proof.Machine
end

