-- ==== Sys2Proof/Safety.lean ====
section
/-! DEFINITION. The terms the statements use: what a change may leave untouched, which instruction may write which
piece of state by the writer lists of 10_state, where an instruction stores, and the machine's invariant. -/

namespace Sys2Proof.Machine

/-! ## Frames -/

/-- Every bit of P outside the named flags is in `q` as it was in `p`, the reserved bit 4 included. -/
def FlagsKeptBut (written : List Flag) (p q : Byte) : Prop :=
  ∀ k, k < 8 → k ∉ written.map flagPos → q.getLsbD k = p.getLsbD k

/-- Z and N are recomputed from `v` and no other bit of P changes (10_state R33). -/
def ZNFrom (v p q : Byte) : Prop :=
  getFlag q .z = decide (v = 0) ∧ getFlag q .n = decide (128 ≤ v.toNat) ∧ FlagsKeptBut [.z, .n] p q

/-- Every byte of memory reads as before. -/
def MemoryKept (s t : State) : Prop := ∀ addr, t.read addr = s.read addr

/-- Every byte of memory outside the named addresses reads as before. -/
def MemoryKeptBut (stored : List Word) (s t : State) : Prop :=
  ∀ addr, addr ∉ stored → t.read addr = s.read addr

/-! ## Who may write what -/

/-- The writers of A (10_state R21): in the shifts and rotates only the Accumulator form. -/
def mayWriteA : Instr → Bool
  | .lda _ | .and _ | .ora _ | .eor _ | .pla | .txa | .tya | .adc _ | .sbc _ => true
  | .asl m | .lsr m | .rol m | .ror m => decide (m = .acc)
  | .ldx _ | .ldy _ | .sta _ | .stx _ | .sty _ | .bit _ | .cmp _ | .cpx _ | .cpy _ | .inc _ | .dec _
  | .inx | .iny | .dex | .dey
  | .bcc _ | .bcs _ | .beq _ | .bne _ | .bmi _ | .bpl _ | .bvc _ | .bvs _
  | .jmp _ | .jsr _ | .rts | .brk | .rti | .pha | .php | .plp | .tax | .tay | .tsx | .txs
  | .sec | .clc | .sei | .cli | .sed | .cld | .clv | .nop | .undefined _ => false

/-- The writers of X (10_state R22). -/
def mayWriteX : Instr → Bool
  | .ldx _ | .tax | .tsx | .inx | .dex => true
  | .lda _ | .ldy _ | .sta _ | .stx _ | .sty _ | .and _ | .ora _ | .eor _ | .bit _
  | .asl _ | .lsr _ | .rol _ | .ror _ | .cmp _ | .cpx _ | .cpy _ | .inc _ | .dec _ | .iny | .dey
  | .bcc _ | .bcs _ | .beq _ | .bne _ | .bmi _ | .bpl _ | .bvc _ | .bvs _
  | .jmp _ | .jsr _ | .rts | .brk | .rti | .pha | .php | .pla | .plp | .txa | .tay | .tya | .txs
  | .sec | .clc | .sei | .cli | .sed | .cld | .clv | .nop | .undefined _ | .adc _ | .sbc _ => false

/-- The writers of Y (10_state R23). -/
def mayWriteY : Instr → Bool
  | .ldy _ | .tay | .iny | .dey => true
  | .lda _ | .ldx _ | .sta _ | .stx _ | .sty _ | .and _ | .ora _ | .eor _ | .bit _
  | .asl _ | .lsr _ | .rol _ | .ror _ | .cmp _ | .cpx _ | .cpy _ | .inc _ | .dec _ | .inx | .dex
  | .bcc _ | .bcs _ | .beq _ | .bne _ | .bmi _ | .bpl _ | .bvc _ | .bvs _
  | .jmp _ | .jsr _ | .rts | .brk | .rti | .pha | .php | .pla | .plp | .tax | .txa | .tya | .tsx | .txs
  | .sec | .clc | .sei | .cli | .sed | .cld | .clv | .nop | .undefined _ | .adc _ | .sbc _ => false

/-- The writers of S: "TXS, by every push and pop" (10_state R25). -/
def mayWriteS : Instr → Bool
  | .txs | .pha | .php | .pla | .plp | .jsr _ | .rts | .brk | .rti => true
  | .lda _ | .ldx _ | .ldy _ | .sta _ | .stx _ | .sty _ | .and _ | .ora _ | .eor _ | .bit _
  | .asl _ | .lsr _ | .rol _ | .ror _ | .cmp _ | .cpx _ | .cpy _ | .inc _ | .dec _
  | .inx | .iny | .dex | .dey
  | .bcc _ | .bcs _ | .beq _ | .bne _ | .bmi _ | .bpl _ | .bvc _ | .bvs _
  | .jmp _ | .tax | .txa | .tay | .tya | .tsx
  | .sec | .clc | .sei | .cli | .sed | .cld | .clv | .nop | .undefined _ | .adc _ | .sbc _ => false

/-- The bits of P an instruction may write, by the writer lists of 10_state R28 to R35; PLP and RTI load all eight. -/
def flagsWritten : Instr → List Nat
  | .plp | .rti => [0, 1, 2, 3, 4, 5, 6, 7]
  | .asl _ | .lsr _ | .rol _ | .ror _ | .cmp _ | .cpx _ | .cpy _ => [0, 1, 7]
  | .adc _ | .sbc _ => [0, 1, 6, 7]
  | .bit _ => [1, 6, 7]
  | .lda _ | .ldx _ | .ldy _ | .and _ | .ora _ | .eor _ | .inc _ | .dec _
  | .inx | .iny | .dex | .dey | .pla | .tax | .txa | .tay | .tya | .tsx => [1, 7]
  | .sec | .clc => [0]
  | .sei | .cli => [2]
  | .sed | .cld => [3]
  | .clv => [6]
  | .brk => [5]
  | .sta _ | .stx _ | .sty _
  | .bcc _ | .bcs _ | .beq _ | .bne _ | .bmi _ | .bpl _ | .bvc _ | .bvs _
  | .jmp _ | .jsr _ | .rts | .pha | .php | .txs | .nop | .undefined _ => []

/-- The addresses an instruction stores to, from the state its handler starts in. -/
def storedTo (i : Instr) (s : State) : List Word :=
  match i with
  | .sta m | .stx m | .sty m | .inc m | .dec m | .asl m | .lsr m | .rol m | .ror m => (ea m s).toList
  | .pha | .php => [stackAddr s.sp]
  | .jsr _ => [stackAddr s.sp, stackAddr (s.sp - 1)]
  | .brk => [stackAddr s.sp, stackAddr (s.sp - 1), stackAddr (s.sp - 2)]
  | .lda _ | .ldx _ | .ldy _ | .and _ | .ora _ | .eor _ | .bit _ | .cmp _ | .cpx _ | .cpy _
  | .inx | .iny | .dex | .dey
  | .bcc _ | .bcs _ | .beq _ | .bne _ | .bmi _ | .bpl _ | .bvc _ | .bvs _
  | .jmp _ | .rts | .rti | .pla | .plp | .tax | .txa | .tay | .tya | .tsx | .txs
  | .sec | .clc | .sei | .cli | .sed | .cld | .clv | .nop | .undefined _ | .adc _ | .sbc _ => []

/-- The instructions that set PC themselves (30_encoding R84): JMP, JSR, RTS, BRK, RTI and the branches. -/
def setsPc : Instr → Bool
  | .jmp _ | .jsr _ | .rts | .brk | .rti
  | .bcc _ | .bcs _ | .beq _ | .bne _ | .bmi _ | .bpl _ | .bvc _ | .bvs _ => true
  | .lda _ | .ldx _ | .ldy _ | .sta _ | .stx _ | .sty _ | .and _ | .ora _ | .eor _ | .bit _
  | .asl _ | .lsr _ | .rol _ | .ror _ | .cmp _ | .cpx _ | .cpy _ | .inc _ | .dec _
  | .inx | .iny | .dex | .dey | .pha | .php | .pla | .plp | .tax | .txa | .tay | .tya | .tsx | .txs
  | .sec | .clc | .sei | .cli | .sed | .cld | .clv | .nop | .undefined _ | .adc _ | .sbc _ => false

/-! ## Safe runs -/

/-- The machine's invariant: memory is in its canonical form. The widths of the registers hold by their types
(10_state R41). -/
def State.Inv (s : State) : Prop := s.mem.wf

/-- A run of `n` steps that stops at no fault and no refusal (70_reset_and_hazards R233, R240). -/
def RunsFor (n : Nat) (s : State) : Prop := ∃ t : State, Host.Core.run Sys2Proof.core n s = .next t

end Sys2Proof.Machine
end

