-- ==== Sys2Proof/Certificates/Slice0/Obligations.lean ====
section
/-! DEFINITION. The statements for the provers. In a statement about `exec i s` the state `s` is the one the handler
starts in, so `s.pc` is the `pc_h` of the rules; `Obligations.StepRunsTheDecodedInstruction` ties it to `step`. -/

open Sys2Proof
open Sys2Proof.Machine

/-! ## Memory and stack primitives -/

/-- 20_memory R54: "`MemWrite(addr, 1, v)` ... sets `M[addr] <- v` and changes nothing else." -/
def Obligations.MemWriteChangesOneByte : Prop :=
  ∀ (s : State) (addr : Word) (v : Byte),
    (∀ b : Word, (s.write addr v).read b = if b = addr then v else s.read b) ∧
    (s.write addr v).a = s.a ∧ (s.write addr v).x = s.x ∧ (s.write addr v).y = s.y ∧
    (s.write addr v).sp = s.sp ∧ (s.write addr v).p = s.p ∧ (s.write addr v).pc = s.pc

/-- 20_memory R53, R55, R62: a Word is two bytes, the low one first, the second address wrapping at the top of memory. -/
def Obligations.WordAccessIsLittleEndian : Prop :=
  ∀ (s : State) (addr w : Word),
    (s.read16 addr).toNat = 256 * (s.read (addr + 1)).toNat + (s.read addr).toNat ∧
    ((s.write16 addr w).read addr).toNat = w.toNat % 256 ∧
    ((s.write16 addr w).read (addr + 1)).toNat = w.toNat / 256 ∧
    MemoryKeptBut [addr, addr + 1] s (s.write16 addr w) ∧
    (s.write16 addr w).read16 addr = w ∧
    (s.write16 addr w).a = s.a ∧ (s.write16 addr w).x = s.x ∧ (s.write16 addr w).y = s.y ∧
    (s.write16 addr w).sp = s.sp ∧ (s.write16 addr w).p = s.p ∧ (s.write16 addr w).pc = s.pc

/-- 20_memory R56, R57: the zero-page pointer read stays in the zero page, and the page-wrap read takes its high byte
from the pointer's own page: the ordinary Word unless the pointer's low byte is 0xFF. -/
def Obligations.PointerReadsStayInTheirPage : Prop :=
  ∀ (s : State) (p : Byte) (ptr : Word),
    (s.readZP16 p).toNat =
      256 * (s.read (BitVec.ofNat 16 ((p.toNat + 1) % 256))).toNat + (s.read (BitVec.ofNat 16 p.toNat)).toNat ∧
    (s.readPageWrap16 ptr =
      if ptr.toNat % 256 = 255 then wordOf (s.read (ptr &&& 0xFF00)) (s.read ptr) else s.read16 ptr)

/-- 20_memory R58. -/
def Obligations.PushStoresThenDecrements : Prop :=
  ∀ (s : State) (v : Byte),
    (∀ b : Word, (s.push8 v).read b = if b = (0x0100 : Word) ||| zext16 s.sp then v else s.read b) ∧
    (s.push8 v).sp = s.sp - 1 ∧
    256 ≤ ((0x0100 : Word) ||| zext16 s.sp).toNat ∧ ((0x0100 : Word) ||| zext16 s.sp).toNat ≤ 511 ∧
    (s.sp = 0 → (s.push8 v).read 0x0100 = v ∧ (s.push8 v).sp = 0xFF) ∧
    (s.push8 v).a = s.a ∧ (s.push8 v).x = s.x ∧ (s.push8 v).y = s.y ∧
    (s.push8 v).p = s.p ∧ (s.push8 v).pc = s.pc

/-- 20_memory R59. -/
def Obligations.PopIncrementsThenReads : Prop :=
  ∀ (s : State) (v : Byte),
    s.pop8.1 = s.read ((0x0100 : Word) ||| zext16 (s.sp + 1)) ∧
    s.pop8.2.sp = s.sp + 1 ∧
    MemoryKept s s.pop8.2 ∧
    (s.sp = 0xFF → s.pop8.2.sp = 0 ∧ s.pop8.1 = s.read 0x0100) ∧
    (s.push8 v).pop8.1 = v ∧ (s.push8 v).pop8.2.sp = s.sp ∧
    s.pop8.2.a = s.a ∧ s.pop8.2.x = s.x ∧ s.pop8.2.y = s.y ∧ s.pop8.2.p = s.p ∧ s.pop8.2.pc = s.pc

/-- 20_memory R60, R61. The order of the two pushes is the spec's decision D7, assumption 7. -/
def Obligations.PushedWordLayoutAndInverse : Prop :=
  ∀ (s : State) (w : Word),
    (s.push16 w).sp = s.sp - 2 ∧
    (s.push16 w).read (stackAddr s.sp) = hiByte w ∧
    (s.push16 w).read (stackAddr (s.sp - 1)) = loByte w ∧
    MemoryKeptBut [stackAddr s.sp, stackAddr (s.sp - 1)] s (s.push16 w) ∧
    (s.push16 w).pop16.1 = w ∧ (s.push16 w).pop16.2.sp = s.sp ∧
    (s.push16 w).a = s.a ∧ (s.push16 w).x = s.x ∧ (s.push16 w).y = s.y ∧
    (s.push16 w).p = s.p ∧ (s.push16 w).pc = s.pc

/-! ## Flag computations -/

/-- 10_state R33: Z and N are always both written, and no other bit of P changes. -/
def Obligations.SetZNRecomputesBothFlags : Prop :=
  ∀ p v : Byte,
    (getFlag (setZN p v) .z = true ↔ v = 0) ∧
    getFlag (setZN p v) .n = v.getLsbD 7 ∧
    FlagsKeptBut [.z, .n] p (setZN p v)

/-- 43_compare R140, with its outcome table; `compareWith` is the compare of a register value `r` with the operand. -/
def Obligations.CompareOutcome : Prop :=
  ∀ (r : Byte) (m : AddrMode) (s : State),
    (getFlag (compareWith r m s).p .c = true ↔ (operand m s).toNat ≤ r.toNat) ∧
    (getFlag (compareWith r m s).p .z = true ↔ r = operand m s) ∧
    getFlag (compareWith r m s).p .n = (BitVec.ofInt 8 (r.toNat - (operand m s).toNat)).getLsbD 7 ∧
    (r = operand m s → getFlag (compareWith r m s).p .n = false) ∧
    FlagsKeptBut [.c, .z, .n] s.p (compareWith r m s).p ∧
    MemoryKept s (compareWith r m s) ∧
    (compareWith r m s).a = s.a ∧ (compareWith r m s).x = s.x ∧ (compareWith r m s).y = s.y ∧
    (compareWith r m s).sp = s.sp

/-- 45_branch R160: the not-taken successor is the address after the offset byte, the taken target adds the offset as
a signed number in -128 to 127, mod 65536; for every offset byte, so for the one at `pc_h`. -/
def Obligations.BranchTarget : Prop :=
  ∀ (off : Byte) (s : State),
    (branch false off s).pc = s.pc + 1 ∧
    (branch true off s).pc = BitVec.ofInt 16 (s.pc.toNat + 1 + off.toInt) ∧
    ∀ cond : Bool,
      (branch cond off s).p = s.p ∧ (branch cond off s).a = s.a ∧ (branch cond off s).x = s.x ∧
      (branch cond off s).y = s.y ∧ (branch cond off s).sp = s.sp ∧ MemoryKept s (branch cond off s)

/-- 49_add_subtract R203 (b): what the candidate `ADDSUB_BINARY` computes; no instruction is asserted to compute it. -/
def Obligations.BinaryCandidateArithmetic : Prop :=
  ∀ a m p : Byte,
    (256 * (if (addSubBinary .adc a m p).c then 1 else 0) + (addSubBinary .adc a m p).a.toNat =
      a.toNat + m.toNat + (if getFlag p .c then 1 else 0)) ∧
    (256 * (if (addSubBinary .sbc a m p).c then 1 else 0) + (addSubBinary .sbc a m p).a.toNat =
      a.toNat + (255 - m.toNat) + (if getFlag p .c then 1 else 0)) ∧
    ∀ op : AddSubOp,
      ((addSubBinary op a m p).z = true ↔ (addSubBinary op a m p).a = 0) ∧
      ((addSubBinary op a m p).n = true ↔ 128 ≤ (addSubBinary op a m p).a.toNat)

/-! ## Addressing modes -/

/-- 30_encoding R91, R93, R94, R96, R97, R99: the effective address and the operand byte-count of six modes, for
every operand byte and word, so for those at `pc_h`. -/
def Obligations.EffectiveAddresses : Prop :=
  ∀ (s : State) (b : Byte) (w : Word),
    (ea (.zp b) s = some (BitVec.ofNat 16 b.toNat) ∧ nbytes (.zp b) = 1) ∧
    (ea (.zpx b) s = some (BitVec.ofNat 16 ((b.toNat + s.x.toNat) % 256)) ∧ nbytes (.zpx b) = 1) ∧
    (ea (.zpy b) s = some (BitVec.ofNat 16 ((b.toNat + s.y.toNat) % 256)) ∧ nbytes (.zpy b) = 1) ∧
    (ea (.absx w) s = some (BitVec.ofNat 16 (w.toNat + s.x.toNat)) ∧ nbytes (.absx w) = 2) ∧
    (ea (.absy w) s = some (BitVec.ofNat 16 (w.toNat + s.y.toNat)) ∧ nbytes (.absy w) = 2) ∧
    (ea (.indx b) s =
      some (BitVec.ofNat 16
        (256 * (s.read (BitVec.ofNat 16 ((b.toNat + s.x.toNat + 1) % 256))).toNat +
          (s.read (BitVec.ofNat 16 ((b.toNat + s.x.toNat) % 256))).toNat)) ∧ nbytes (.indx b) = 1)

/-- 30_encoding R98, for both values of `INDY_PTR_WRAP`; the machine uses `Config.indyPtrWrap` (the spec's decision D8,
assumption 5), and the two differ only for the pointer 0xFF. -/
def Obligations.IndirectYUnderBothParameters : Prop :=
  ∀ (s : State) (p : Byte),
    ea (.indy p) s = some (indyBase Config.indyPtrWrap p s + BitVec.ofNat 16 s.y.toNat) ∧
    nbytes (.indy p) = 1 ∧
    indyBase true p s = wordOf (s.read (BitVec.ofNat 16 ((p.toNat + 1) % 256))) (s.read (BitVec.ofNat 16 p.toNat)) ∧
    indyBase false p s = wordOf (s.read (BitVec.ofNat 16 (p.toNat + 1))) (s.read (BitVec.ofNat 16 p.toNat)) ∧
    (p ≠ 0xFF → indyBase true p s = indyBase false p s)

/-- 30_encoding R90, R92, R95, R101: the operand and the result of a mode. Where the immediate byte the decoded
instruction carries is the byte at `pc_h` (assumption 11), the operand is the byte at the effective address. -/
def Obligations.OperandAndResult : Prop :=
  ∀ (m : AddrMode) (v : Byte) (s : State) (w : Word),
    (∀ i : Byte, operand (.imm i) s = i ∧ ea (.imm i) s = some s.pc ∧ nbytes (.imm i) = 1) ∧
    (ea (.abs w) s = some w ∧ nbytes (.abs w) = 2) ∧
    (ea .acc s = none ∧ nbytes .acc = 0 ∧ operand .acc s = s.a ∧ result .acc v s = s.setA v) ∧
    (∀ addr : Word, ea m s = some addr → (∀ i : Byte, m = .imm i → s.read s.pc = i) →
      operand m s = s.read addr) ∧
    (∀ addr : Word, ea m s = some addr → result m v s = s.write addr v)

/-! ## Load and store -/

/-- 40_load_store R110, R111, R112. -/
def Obligations.LoadsSetRegisterAndZN : Prop :=
  ∀ (m : AddrMode) (s : State),
    (∃ t, exec (.lda m) s = .next t ∧ t.a = operand m s ∧ t.x = s.x ∧ t.y = s.y ∧ t.sp = s.sp ∧
      ZNFrom (operand m s) s.p t.p ∧ t.pc = s.pc + nbytes m ∧ MemoryKept s t) ∧
    (∃ t, exec (.ldx m) s = .next t ∧ t.x = operand m s ∧ t.a = s.a ∧ t.y = s.y ∧ t.sp = s.sp ∧
      ZNFrom (operand m s) s.p t.p ∧ t.pc = s.pc + nbytes m ∧ MemoryKept s t) ∧
    (∃ t, exec (.ldy m) s = .next t ∧ t.y = operand m s ∧ t.a = s.a ∧ t.x = s.x ∧ t.sp = s.sp ∧
      ZNFrom (operand m s) s.p t.p ∧ t.pc = s.pc + nbytes m ∧ MemoryKept s t)

/-- 40_load_store R113, R114, R115: exactly the byte at the effective address changes. Every form of the three
instructions has an effective address. -/
def Obligations.StoresWriteOneByte : Prop :=
  ∀ (m : AddrMode) (s : State),
    ((Instr.sta m).wellFormed ∨ (Instr.stx m).wellFormed ∨ (Instr.sty m).wellFormed → (ea m s).isSome) ∧
    ∀ addr : Word, ea m s = some addr →
      (∃ t, exec (.sta m) s = .next t ∧ t.read addr = s.a ∧ MemoryKeptBut [addr] s t ∧ t.a = s.a ∧ t.x = s.x ∧
        t.y = s.y ∧ t.sp = s.sp ∧ t.p = s.p ∧ t.pc = s.pc + nbytes m) ∧
      (∃ t, exec (.stx m) s = .next t ∧ t.read addr = s.x ∧ MemoryKeptBut [addr] s t ∧ t.a = s.a ∧ t.x = s.x ∧
        t.y = s.y ∧ t.sp = s.sp ∧ t.p = s.p ∧ t.pc = s.pc + nbytes m) ∧
      (∃ t, exec (.sty m) s = .next t ∧ t.read addr = s.y ∧ MemoryKeptBut [addr] s t ∧ t.a = s.a ∧ t.x = s.x ∧
        t.y = s.y ∧ t.sp = s.sp ∧ t.p = s.p ∧ t.pc = s.pc + nbytes m)

/-- 40_load_store R113: storing A to a zero-page address and loading it back gives A, whatever A holds in between. -/
def Obligations.StoreThenLoadGivesAccumulator : Prop :=
  ∀ (s : State) (z other : Byte),
    ∃ t u, exec (.sta (.zp z)) s = .next t ∧ exec (.lda (.zp z)) (t.setA other) = .next u ∧ u.a = s.a

/-! ## Logical -/

/-- 41_logical R120, R121, R122; which Boolean operation each mnemonic is, is the spec's general knowledge (D21),
assumption 13. -/
def Obligations.LogicalCombineAccumulator : Prop :=
  ∀ (m : AddrMode) (s : State),
    (∃ t, exec (.and m) s = .next t ∧ (∀ k, t.a.getLsbD k = (s.a.getLsbD k && (operand m s).getLsbD k)) ∧
      ZNFrom t.a s.p t.p ∧ t.x = s.x ∧ t.y = s.y ∧ t.sp = s.sp ∧ t.pc = s.pc + nbytes m ∧ MemoryKept s t) ∧
    (∃ t, exec (.ora m) s = .next t ∧ (∀ k, t.a.getLsbD k = (s.a.getLsbD k || (operand m s).getLsbD k)) ∧
      ZNFrom t.a s.p t.p ∧ t.x = s.x ∧ t.y = s.y ∧ t.sp = s.sp ∧ t.pc = s.pc + nbytes m ∧ MemoryKept s t) ∧
    (∃ t, exec (.eor m) s = .next t ∧ (∀ k, t.a.getLsbD k = (s.a.getLsbD k ^^ (operand m s).getLsbD k)) ∧
      ZNFrom t.a s.p t.p ∧ t.x = s.x ∧ t.y = s.y ∧ t.sp = s.sp ∧ t.pc = s.pc + nbytes m ∧ MemoryKept s t)

/-- 41_logical R123, under whichever value `BIT_POLICY` has (open, D3, assumption 3): the standard bit test past its
operand, or a one-byte no-op. That the no-op does not fault rests on `STRICT_DECODE` = false, the model's choice of the
core contract's value (D9, assumption 6). -/
def Obligations.BitUnderEitherPolicy : Prop :=
  ∀ (m : AddrMode) (s : State),
    ∃ t, exec (.bit m) s = .next t ∧ t.a = s.a ∧ t.x = s.x ∧ t.y = s.y ∧ t.sp = s.sp ∧ MemoryKept s t ∧
      FlagsKeptBut [.z, .v, .n] s.p t.p ∧
      match Config.bitPolicy with
      | .standard =>
        getFlag t.p .z = decide (s.a &&& operand m s = 0) ∧ getFlag t.p .n = (operand m s).getLsbD 7 ∧
        getFlag t.p .v = (operand m s).getLsbD 6 ∧ t.pc = s.pc + nbytes m
      | .undefinedNop => t = s

/-! ## Shift and rotate -/

/-- 42_shift_rotate R130 to R133, the accumulator form; the directions are the spec's general knowledge (D21),
assumption 13. -/
def Obligations.ShiftsOnAccumulator : Prop :=
  ∀ s : State,
    (∃ t, exec (.asl .acc) s = .next t ∧ t.a.toNat = s.a.toNat * 2 % 256 ∧
      getFlag t.p .c = decide (128 ≤ s.a.toNat) ∧ getFlag t.p .z = decide (t.a = 0) ∧
      getFlag t.p .n = decide (128 ≤ t.a.toNat) ∧ FlagsKeptBut [.c, .z, .n] s.p t.p ∧
      t.x = s.x ∧ t.y = s.y ∧ t.sp = s.sp ∧ t.pc = s.pc ∧ MemoryKept s t) ∧
    (∃ t, exec (.lsr .acc) s = .next t ∧ t.a.toNat = s.a.toNat / 2 ∧
      getFlag t.p .c = decide (s.a.toNat % 2 = 1) ∧ getFlag t.p .z = decide (t.a = 0) ∧
      getFlag t.p .n = false ∧ FlagsKeptBut [.c, .z, .n] s.p t.p ∧
      t.x = s.x ∧ t.y = s.y ∧ t.sp = s.sp ∧ t.pc = s.pc ∧ MemoryKept s t) ∧
    (∃ t, exec (.rol .acc) s = .next t ∧
      t.a.toNat = s.a.toNat * 2 % 256 + (if getFlag s.p .c then 1 else 0) ∧
      getFlag t.p .c = decide (128 ≤ s.a.toNat) ∧ getFlag t.p .z = decide (t.a = 0) ∧
      getFlag t.p .n = decide (128 ≤ t.a.toNat) ∧ FlagsKeptBut [.c, .z, .n] s.p t.p ∧
      t.x = s.x ∧ t.y = s.y ∧ t.sp = s.sp ∧ t.pc = s.pc ∧ MemoryKept s t) ∧
    (∃ t, exec (.ror .acc) s = .next t ∧
      t.a.toNat = s.a.toNat / 2 + (if getFlag s.p .c then 128 else 0) ∧
      getFlag t.p .c = decide (s.a.toNat % 2 = 1) ∧ getFlag t.p .z = decide (t.a = 0) ∧
      getFlag t.p .n = getFlag s.p .c ∧ FlagsKeptBut [.c, .z, .n] s.p t.p ∧
      t.x = s.x ∧ t.y = s.y ∧ t.sp = s.sp ∧ t.pc = s.pc ∧ MemoryKept s t)

/-- 42_shift_rotate R130 to R133, the memory forms: one byte of memory is read and written, A is unchanged. Directions
as in `Obligations.ShiftsOnAccumulator`. -/
def Obligations.ShiftsOnMemory : Prop :=
  ∀ (m : AddrMode) (s : State) (addr : Word), ea m s = some addr →
    (∃ t, exec (.asl m) s = .next t ∧ (t.read addr).toNat = (operand m s).toNat * 2 % 256 ∧
      getFlag t.p .c = decide (128 ≤ (operand m s).toNat) ∧ getFlag t.p .z = decide (t.read addr = 0) ∧
      getFlag t.p .n = decide (128 ≤ (t.read addr).toNat) ∧ FlagsKeptBut [.c, .z, .n] s.p t.p ∧
      MemoryKeptBut [addr] s t ∧ t.a = s.a ∧ t.x = s.x ∧ t.y = s.y ∧ t.sp = s.sp ∧ t.pc = s.pc + nbytes m) ∧
    (∃ t, exec (.lsr m) s = .next t ∧ (t.read addr).toNat = (operand m s).toNat / 2 ∧
      getFlag t.p .c = decide ((operand m s).toNat % 2 = 1) ∧ getFlag t.p .z = decide (t.read addr = 0) ∧
      getFlag t.p .n = false ∧ FlagsKeptBut [.c, .z, .n] s.p t.p ∧
      MemoryKeptBut [addr] s t ∧ t.a = s.a ∧ t.x = s.x ∧ t.y = s.y ∧ t.sp = s.sp ∧ t.pc = s.pc + nbytes m) ∧
    (∃ t, exec (.rol m) s = .next t ∧
      (t.read addr).toNat = (operand m s).toNat * 2 % 256 + (if getFlag s.p .c then 1 else 0) ∧
      getFlag t.p .c = decide (128 ≤ (operand m s).toNat) ∧ getFlag t.p .z = decide (t.read addr = 0) ∧
      getFlag t.p .n = decide (128 ≤ (t.read addr).toNat) ∧ FlagsKeptBut [.c, .z, .n] s.p t.p ∧
      MemoryKeptBut [addr] s t ∧ t.a = s.a ∧ t.x = s.x ∧ t.y = s.y ∧ t.sp = s.sp ∧ t.pc = s.pc + nbytes m) ∧
    (∃ t, exec (.ror m) s = .next t ∧
      (t.read addr).toNat = (operand m s).toNat / 2 + (if getFlag s.p .c then 128 else 0) ∧
      getFlag t.p .c = decide ((operand m s).toNat % 2 = 1) ∧ getFlag t.p .z = decide (t.read addr = 0) ∧
      getFlag t.p .n = getFlag s.p .c ∧ FlagsKeptBut [.c, .z, .n] s.p t.p ∧
      MemoryKeptBut [addr] s t ∧ t.a = s.a ∧ t.x = s.x ∧ t.y = s.y ∧ t.sp = s.sp ∧ t.pc = s.pc + nbytes m)

/-! ## Compare, increment, decrement -/

/-- 43_compare R141, R142, R143. -/
def Obligations.ComparesWriteFlagsOnly : Prop :=
  ∀ (m : AddrMode) (s : State),
    (∃ t, exec (.cmp m) s = .next t ∧ getFlag t.p .c = decide ((operand m s).toNat ≤ s.a.toNat) ∧
      getFlag t.p .z = decide (s.a = operand m s) ∧ getFlag t.p .n = (s.a - operand m s).getLsbD 7 ∧
      FlagsKeptBut [.c, .z, .n] s.p t.p ∧ t.a = s.a ∧ t.x = s.x ∧ t.y = s.y ∧ t.sp = s.sp ∧
      t.pc = s.pc + nbytes m ∧ MemoryKept s t) ∧
    (∃ t, exec (.cpx m) s = .next t ∧ getFlag t.p .c = decide ((operand m s).toNat ≤ s.x.toNat) ∧
      getFlag t.p .z = decide (s.x = operand m s) ∧ getFlag t.p .n = (s.x - operand m s).getLsbD 7 ∧
      FlagsKeptBut [.c, .z, .n] s.p t.p ∧ t.a = s.a ∧ t.x = s.x ∧ t.y = s.y ∧ t.sp = s.sp ∧
      t.pc = s.pc + nbytes m ∧ MemoryKept s t) ∧
    (∃ t, exec (.cpy m) s = .next t ∧ getFlag t.p .c = decide ((operand m s).toNat ≤ s.y.toNat) ∧
      getFlag t.p .z = decide (s.y = operand m s) ∧ getFlag t.p .n = (s.y - operand m s).getLsbD 7 ∧
      FlagsKeptBut [.c, .z, .n] s.p t.p ∧ t.a = s.a ∧ t.x = s.x ∧ t.y = s.y ∧ t.sp = s.sp ∧
      t.pc = s.pc + nbytes m ∧ MemoryKept s t)

/-- 44_inc_dec R150, R151: the byte wraps, no Carry and no Overflow. Every form has an effective address. -/
def Obligations.IncDecMemory : Prop :=
  ∀ (m : AddrMode) (s : State),
    ((Instr.inc m).wellFormed ∨ (Instr.dec m).wellFormed → (ea m s).isSome) ∧
    ∀ addr : Word, ea m s = some addr →
      (∃ t, exec (.inc m) s = .next t ∧ (t.read addr).toNat = ((operand m s).toNat + 1) % 256 ∧
        ZNFrom (t.read addr) s.p t.p ∧ MemoryKeptBut [addr] s t ∧ t.a = s.a ∧ t.x = s.x ∧ t.y = s.y ∧
        t.sp = s.sp ∧ t.pc = s.pc + nbytes m) ∧
      (∃ t, exec (.dec m) s = .next t ∧ (t.read addr).toNat = ((operand m s).toNat + 255) % 256 ∧
        ZNFrom (t.read addr) s.p t.p ∧ MemoryKeptBut [addr] s t ∧ t.a = s.a ∧ t.x = s.x ∧ t.y = s.y ∧
        t.sp = s.sp ∧ t.pc = s.pc + nbytes m)

/-- 44_inc_dec R152 to R155. -/
def Obligations.IncDecRegisters : Prop :=
  ∀ s : State,
    (∃ t, exec .inx s = .next t ∧ t.x.toNat = (s.x.toNat + 1) % 256 ∧ ZNFrom t.x s.p t.p ∧ t.a = s.a ∧ t.y = s.y ∧
      t.sp = s.sp ∧ t.pc = s.pc ∧ MemoryKept s t) ∧
    (∃ t, exec .iny s = .next t ∧ t.y.toNat = (s.y.toNat + 1) % 256 ∧ ZNFrom t.y s.p t.p ∧ t.a = s.a ∧ t.x = s.x ∧
      t.sp = s.sp ∧ t.pc = s.pc ∧ MemoryKept s t) ∧
    (∃ t, exec .dex s = .next t ∧ t.x.toNat = (s.x.toNat + 255) % 256 ∧ ZNFrom t.x s.p t.p ∧ t.a = s.a ∧ t.y = s.y ∧
      t.sp = s.sp ∧ t.pc = s.pc ∧ MemoryKept s t) ∧
    (∃ t, exec .dey s = .next t ∧ t.y.toNat = (s.y.toNat + 255) % 256 ∧ ZNFrom t.y s.p t.p ∧ t.a = s.a ∧ t.x = s.x ∧
      t.sp = s.sp ∧ t.pc = s.pc ∧ MemoryKept s t)

/-! ## Control flow -/

/-- 45_branch R161 to R168: each branch completes, moves only pc, and is taken as its flag says. But for BPL, which
flag and which sense is the spec's general knowledge (D21), assumption 13. -/
def Obligations.BranchesTestTheirFlag : Prop :=
  ∀ (off : Byte) (s : State),
    exec (.bcc off) s = .next { s with pc := if getFlag s.p .c then s.pc + 1 else s.pc + 1 + sext16 off } ∧
    exec (.bcs off) s = .next { s with pc := if getFlag s.p .c then s.pc + 1 + sext16 off else s.pc + 1 } ∧
    exec (.bne off) s = .next { s with pc := if getFlag s.p .z then s.pc + 1 else s.pc + 1 + sext16 off } ∧
    exec (.beq off) s = .next { s with pc := if getFlag s.p .z then s.pc + 1 + sext16 off else s.pc + 1 } ∧
    exec (.bpl off) s = .next { s with pc := if getFlag s.p .n then s.pc + 1 else s.pc + 1 + sext16 off } ∧
    exec (.bmi off) s = .next { s with pc := if getFlag s.p .n then s.pc + 1 + sext16 off else s.pc + 1 } ∧
    exec (.bvc off) s = .next { s with pc := if getFlag s.p .v then s.pc + 1 else s.pc + 1 + sext16 off } ∧
    exec (.bvs off) s = .next { s with pc := if getFlag s.p .v then s.pc + 1 + sext16 off else s.pc + 1 }

/-- 46_jump_call_interrupt R170, 30_encoding R100: JMP changes PC alone, with nothing added after it (D16,
assumption 10), and the indirect form takes the high byte of its target from the pointer's own page (90_conflicts C2,
D17, assumption 12). -/
def Obligations.JumpsSetPcAlone : Prop :=
  ∀ (w ptr : Word) (s : State),
    exec (.jmp (.abs w)) s = .next { s with pc := w } ∧
    exec (.jmp (.ind ptr)) s =
      .next { s with
        pc := if ptr.toNat % 256 = 255 then wordOf (s.read (ptr &&& 0xFF00)) (s.read ptr) else s.read16 ptr }

/-- 46_jump_call_interrupt R171; `s.pc + 1` is the address of the call's last byte. The place of the two bytes is the
spec's decision D7 (assumption 7); the target is read before the push (D19, assumption 11) and nothing is added to it
(D16, assumption 10). -/
def Obligations.CallPushesReturnAddress : Prop :=
  ∀ (target : Word) (s : State),
    ∃ t, exec (.jsr target) s = .next t ∧ t.pc = target ∧ t.sp = s.sp - 2 ∧
      t.read (stackAddr s.sp) = hiByte (s.pc + 1) ∧
      t.read (stackAddr (s.sp - 1)) = loByte (s.pc + 1) ∧
      MemoryKeptBut [stackAddr s.sp, stackAddr (s.sp - 1)] s t ∧
      t.a = s.a ∧ t.x = s.x ∧ t.y = s.y ∧ t.p = s.p

/-- 46_jump_call_interrupt R172: the popped Word plus 1, the low byte popped first (D7, assumption 7), and nothing more
added (D16, assumption 10). -/
def Obligations.ReturnPopsAddressPlusOne : Prop :=
  ∀ s : State,
    exec .rts s = .next { s with
      sp := s.sp + 2
      pc := wordOf (s.read (stackAddr (s.sp + 2))) (s.read (stackAddr (s.sp + 1))) + 1 }

/-- 46_jump_call_interrupt R172's example for every state: a JSR, and then an RTS wherever the call went, continues at
the byte after the 3-byte call with S, A, X, Y, P as they were (nothing added to PC after either: D16, assumption 10). -/
def Obligations.CallThenReturnContinues : Prop :=
  ∀ (target pc' : Word) (s : State),
    ∃ t u, exec (.jsr target) s = .next t ∧ exec .rts (t.setPc pc') = .next u ∧
      u.pc = s.pc + 2 ∧ u.sp = s.sp ∧ u.a = s.a ∧ u.x = s.x ∧ u.y = s.y ∧ u.p = s.p

/-- 46_jump_call_interrupt R173, 60_exceptions R214. Which PC and which P are pushed, that Break is set in the live P
and that InterruptDisable stays are the spec's decisions D5 and D6 (assumption 8). That the high byte of the pushed PC
lies at S and the low byte at S - 1 is its decision D7 (assumption 7). -/
def Obligations.BreakEntersSoftwareInterrupt : Prop :=
  ∀ s : State,
    ∃ t, exec .brk s = .next t ∧ t.sp = s.sp - 3 ∧
      t.read (stackAddr s.sp) = hiByte s.pc ∧
      t.read (stackAddr (s.sp - 1)) = loByte s.pc ∧
      t.read (stackAddr (s.sp - 2)) = s.p ∧
      MemoryKeptBut [stackAddr s.sp, stackAddr (s.sp - 1),
        stackAddr (s.sp - 2)] s t ∧
      getFlag t.p .b = true ∧ FlagsKeptBut [.b] s.p t.p ∧
      t.pc = wordOf (s.read 0xFFFF) (s.read 0xFFFE) ∧
      t.a = s.a ∧ t.x = s.x ∧ t.y = s.y

/-- 46_jump_call_interrupt R174, 60_exceptions R215: all eight bits of P (the spec's decision D18, assumption 9), then
PC, its low byte at S + 2 and its high byte at S + 3 (D7, assumption 7), with nothing added (D16, assumption 10). -/
def Obligations.ReturnFromInterruptRestores : Prop :=
  ∀ s : State,
    exec .rti s = .next { s with
      p := s.read (stackAddr (s.sp + 1))
      sp := s.sp + 3
      pc := wordOf (s.read (stackAddr (s.sp + 3))) (s.read (stackAddr (s.sp + 2))) }

/-- 46_jump_call_interrupt R174: an RTI after a BRK, wherever the vector led, restores P and S and resumes at the byte
after the BRK opcode (D5, D6, assumption 8; D16, assumption 10). That all eight bits of P return, Break and bit 4
included, is the spec's decision D18 (assumption 9). -/
def Obligations.BreakThenReturnRestores : Prop :=
  ∀ (pc' : Word) (s : State),
    ∃ t u, exec .brk s = .next t ∧ exec .rti (t.setPc pc') = .next u ∧
      u.pc = s.pc ∧ u.sp = s.sp ∧ u.p = s.p ∧ u.a = s.a ∧ u.x = s.x ∧ u.y = s.y

/-! ## Stack and transfers -/

/-- 47_stack_transfer R180, R181: P is pushed with no bit forced (D18, assumption 9). -/
def Obligations.PushInstructions : Prop :=
  ∀ s : State,
    (∃ t, exec .pha s = .next t ∧ t.read (stackAddr s.sp) = s.a ∧ t.sp = s.sp - 1 ∧
      MemoryKeptBut [stackAddr s.sp] s t ∧ t.a = s.a ∧ t.x = s.x ∧ t.y = s.y ∧ t.p = s.p ∧
      t.pc = s.pc) ∧
    (∃ t, exec .php s = .next t ∧ t.read (stackAddr s.sp) = s.p ∧ t.sp = s.sp - 1 ∧
      MemoryKeptBut [stackAddr s.sp] s t ∧ t.a = s.a ∧ t.x = s.x ∧ t.y = s.y ∧ t.p = s.p ∧
      t.pc = s.pc)

/-- 47_stack_transfer R182, R183: PLA recomputes Z and N; PLP loads all eight bits (D18, assumption 9). -/
def Obligations.PullInstructions : Prop :=
  ∀ s : State,
    (∃ t, exec .pla s = .next t ∧ t.a = s.read (stackAddr (s.sp + 1)) ∧ t.sp = s.sp + 1 ∧
      ZNFrom t.a s.p t.p ∧ t.x = s.x ∧ t.y = s.y ∧ t.pc = s.pc ∧ MemoryKept s t) ∧
    (∃ t, exec .plp s = .next t ∧ t.p = s.read (stackAddr (s.sp + 1)) ∧ t.sp = s.sp + 1 ∧
      t.a = s.a ∧ t.x = s.x ∧ t.y = s.y ∧ t.pc = s.pc ∧ MemoryKept s t)

/-- 47_stack_transfer R184 to R188: the source and destination registers are the spec's general knowledge (D21),
assumption 13. -/
def Obligations.TransfersCopyAndSetZN : Prop :=
  ∀ s : State,
    (∃ t, exec .tax s = .next t ∧ t.x = s.a ∧ ZNFrom s.a s.p t.p ∧ t.a = s.a ∧ t.y = s.y ∧ t.sp = s.sp ∧
      t.pc = s.pc ∧ MemoryKept s t) ∧
    (∃ t, exec .txa s = .next t ∧ t.a = s.x ∧ ZNFrom s.x s.p t.p ∧ t.x = s.x ∧ t.y = s.y ∧ t.sp = s.sp ∧
      t.pc = s.pc ∧ MemoryKept s t) ∧
    (∃ t, exec .tay s = .next t ∧ t.y = s.a ∧ ZNFrom s.a s.p t.p ∧ t.a = s.a ∧ t.x = s.x ∧ t.sp = s.sp ∧
      t.pc = s.pc ∧ MemoryKept s t) ∧
    (∃ t, exec .tya s = .next t ∧ t.a = s.y ∧ ZNFrom s.y s.p t.p ∧ t.x = s.x ∧ t.y = s.y ∧ t.sp = s.sp ∧
      t.pc = s.pc ∧ MemoryKept s t) ∧
    (∃ t, exec .tsx s = .next t ∧ t.x = s.sp ∧ ZNFrom s.sp s.p t.p ∧ t.a = s.a ∧ t.y = s.y ∧ t.sp = s.sp ∧
      t.pc = s.pc ∧ MemoryKept s t)

/-- 47_stack_transfer R189: S alone changes, "with no flag effect" (assumption 13). -/
def Obligations.StackPointerTransferWritesNoFlag : Prop :=
  ∀ s : State, exec .txs s = .next { s with sp := s.x }

/-! ## Flag writes, the no-op, undefined bytes -/

/-- 48_flag_nop R190 to R196: one named bit of P, the other seven and everything else unchanged. Which bit a mnemonic
names is the spec's general knowledge (D21), assumption 13. -/
def Obligations.FlagInstructionsWriteOneBit : Prop :=
  ∀ s : State,
    (∃ p, exec .sec s = .next { s with p := p } ∧ getFlag p .c = true ∧ FlagsKeptBut [.c] s.p p) ∧
    (∃ p, exec .clc s = .next { s with p := p } ∧ getFlag p .c = false ∧ FlagsKeptBut [.c] s.p p) ∧
    (∃ p, exec .sei s = .next { s with p := p } ∧ getFlag p .i = true ∧ FlagsKeptBut [.i] s.p p) ∧
    (∃ p, exec .cli s = .next { s with p := p } ∧ getFlag p .i = false ∧ FlagsKeptBut [.i] s.p p) ∧
    (∃ p, exec .sed s = .next { s with p := p } ∧ getFlag p .d = true ∧ FlagsKeptBut [.d] s.p p) ∧
    (∃ p, exec .cld s = .next { s with p := p } ∧ getFlag p .d = false ∧ FlagsKeptBut [.d] s.p p) ∧
    (∃ p, exec .clv s = .next { s with p := p } ∧ getFlag p .v = false ∧ FlagsKeptBut [.v] s.p p)

/-- 48_flag_nop R197, R198 with the core contract's `STRICT_DECODE` (D9, assumption 6): NOP and every undefined byte
change nothing but pc, which is past the opcode byte when the handler starts. -/
def Obligations.NopAndUndefinedChangeNothing : Prop :=
  ∀ (opc : Byte) (s : State), exec .nop s = .next s ∧ exec (.undefined opc) s = .next s

/-- 48_flag_nop R198, 60_exceptions R211, 41_logical R123: in the strict variant an undefined byte faults with that
byte, and BIT faults only if its bytes are undefined; without it neither does. The machine's parameter is the core
contract's (D9, assumption 6). -/
def Obligations.StrictVariantFaults : Prop :=
  ∀ (opc : Byte) (m : AddrMode) (s : State),
    undefinedOpcode true opc s = .fault (.decodeFault opc) ∧
    undefinedOpcode false opc s = .next s ∧
    (∀ b : Byte, bitTest true .undefinedNop (.zp b) s = .fault (.decodeFault 0x24)) ∧
    (∀ w : Word, bitTest true .undefinedNop (.abs w) s = .fault (.decodeFault 0x2C)) ∧
    bitTest true .standard m s = bitTest false .standard m s ∧
    bitTest false .undefinedNop m s = .next s

/-! ## Add and subtract with carry -/

/-- 49_add_subtract R200, R201, R202, for whatever function `ADDSUB` is (open, assumption 4): A and the flags C, Z, V,
N are what it returns of A, the operand and P, and nothing else changes. -/
def Obligations.AddSubtractUnderAnyFunction : Prop :=
  ∀ (m : AddrMode) (s : State),
    (∃ t, exec (.adc m) s = .next t ∧
      t.a = (Config.addSub .adc s.a (operand m s) s.p).a ∧
      getFlag t.p .c = (Config.addSub .adc s.a (operand m s) s.p).c ∧
      getFlag t.p .z = (Config.addSub .adc s.a (operand m s) s.p).z ∧
      getFlag t.p .v = (Config.addSub .adc s.a (operand m s) s.p).v ∧
      getFlag t.p .n = (Config.addSub .adc s.a (operand m s) s.p).n ∧
      FlagsKeptBut [.c, .z, .v, .n] s.p t.p ∧ t.x = s.x ∧ t.y = s.y ∧ t.sp = s.sp ∧
      t.pc = s.pc + nbytes m ∧ MemoryKept s t) ∧
    (∃ t, exec (.sbc m) s = .next t ∧
      t.a = (Config.addSub .sbc s.a (operand m s) s.p).a ∧
      getFlag t.p .c = (Config.addSub .sbc s.a (operand m s) s.p).c ∧
      getFlag t.p .z = (Config.addSub .sbc s.a (operand m s) s.p).z ∧
      getFlag t.p .v = (Config.addSub .sbc s.a (operand m s) s.p).v ∧
      getFlag t.p .n = (Config.addSub .sbc s.a (operand m s) s.p).n ∧
      FlagsKeptBut [.c, .z, .v, .n] s.p t.p ∧ t.x = s.x ∧ t.y = s.y ∧ t.sp = s.sp ∧
      t.pc = s.pc + nbytes m ∧ MemoryKept s t)

/-! ## The step, reset, decoding -/

/-- 30_encoding R83, R84, R86: where the three bytes at PC decode to an instruction, the step is that instruction from
the state with pc past the opcode byte (assumption 16). That all operand bytes are read before anything is written is
the spec's decision D19 (assumption 11), which matters for a JSR over its own stack slots; that nothing is added to PC
after a jump, call, return or BRK is its decision D16 (assumption 10). -/
def Obligations.StepRunsTheDecodedInstruction : Prop :=
  ∀ (s : State) (i : Instr) (rest : List Byte),
    decode [s.read s.pc, s.read (s.pc + 1), s.read (s.pc + 2)] = .ok (i, rest) →
    i.wellFormed = true ∧ step s = exec i { s with pc := s.pc + 1 }

/-- 10_state R40, 70_reset_and_hazards R230. S is `S_RESET`, the model's 0xFF (the spec's decision D1, assumption 1). -/
def Obligations.ResetValues : Prop :=
  State.reset.a = 0 ∧ State.reset.x = 0 ∧ State.reset.y = 0 ∧ State.reset.p = 0 ∧ State.reset.pc = 0x8000 ∧
  State.reset.sp = 0xFF ∧ ∀ addr : Word, State.reset.read addr = 0

/-- The reset state meets the machine's invariant (10_state R40: memory is zero-filled, so nothing is listed). -/
def Obligations.ResetMeetsInvariant : Prop := State.reset.Inv

/-- The canonical form of memory is kept by every step from every state (the model's own form of 10_state R38). -/
def Obligations.StepKeepsInvariant : Prop :=
  ∀ s t : State, s.Inv → step s = .next t → t.Inv

/-- The canonical form of memory is kept by everything the host can do (70_reset_and_hazards R236). -/
def Obligations.HostActionsKeepInvariant : Prop :=
  ∀ (act : HostAction) (s t : State), s.Inv → hostAct act s = .next t → t.Inv

/-- Canonical memories that read alike are equal data. -/
def Obligations.CanonicalMemoriesAreEqualData : Prop :=
  ∀ s t : State, s.Inv → t.Inv → MemoryKept s t → s.mem = t.mem

/-- 70_reset_and_hazards R233, R240, 60_exceptions R210: no step from any state fails, so no run of any length stops.
It rests on the core contract's `STRICT_DECODE` (D9, assumption 6). -/
def Obligations.NoRunEverStops : Prop := ∀ (n : Nat) (s : State), RunsFor n s

/-- 30_encoding R80, R86: every well-formed instruction, with every operand value, has an encoding, and the bytes decode
to it again, whatever follows them. The byte values are the spec's general knowledge (assumption 2). -/
def Obligations.DecodeOfEncode : Prop :=
  ∀ i : Instr, i.wellFormed = true →
    ∃ bytes, encode i = some bytes ∧ ∀ rest : List Byte, decode (bytes ++ rest) = .ok (i, rest)

/-- 30_encoding R82, R85: any three bytes decode to a well-formed instruction whose encoding is a prefix of them, so no
two encodings share a meaning; the length depends on the first byte alone. -/
def Obligations.EncodeOfDecode : Prop :=
  ∀ b0 b1 b2 : Byte,
    (decodeBytes b0 b1 b2).wellFormed = true ∧
    encode (decodeBytes b0 b1 b2) = some ([b0, b1, b2].take (slotOf b0).length) ∧
    1 ≤ (slotOf b0).length ∧ (slotOf b0).length ≤ 3

/-- Words written out from 30_encoding R88, R104 and the examples of 40 to 49; the byte values are the spec's general
knowledge (assumption 2). -/
def Obligations.SampleWordsDecode : Prop :=
  decodeBytes 0xA9 0xC0 0x00 = .lda (.imm 0xC0) ∧
  decodeBytes 0x96 0xFF 0x00 = .stx (.zpy 0xFF) ∧
  decodeBytes 0x1D 0x00 0x30 = .ora (.absx 0x3000) ∧
  decodeBytes 0x2C 0x00 0x30 = .bit (.abs 0x3000) ∧
  decodeBytes 0x6A 0x00 0x00 = .ror .acc ∧
  decodeBytes 0xD1 0x20 0x00 = .cmp (.indy 0x20) ∧
  decodeBytes 0xFE 0xFF 0x01 = .inc (.absx 0x01FF) ∧
  decodeBytes 0x10 0x9C 0x00 = .bpl 0x9C ∧
  decodeBytes 0x6C 0xFF 0x81 = .jmp (.ind 0x81FF) ∧
  decodeBytes 0x20 0x50 0x80 = .jsr 0x8050 ∧
  decodeBytes 0xBA 0x00 0x00 = .tsx ∧
  decodeBytes 0xB8 0x00 0x00 = .clv ∧
  decodeBytes 0x02 0x00 0x00 = .undefined 0x02 ∧
  decodeBytes 0x61 0x20 0x00 = .adc (.indx 0x20)

/-! ## Whole-machine rules -/

/-- 10_state R21, R22, R23, R25: A, X, Y and S are written by the instructions their rules list and by no other. -/
def Obligations.RegistersWrittenOnlyByTheirInstructions : Prop :=
  ∀ (i : Instr) (s t : State), i.wellFormed = true → exec i s = .next t →
    (mayWriteA i = false → t.a = s.a) ∧ (mayWriteX i = false → t.x = s.x) ∧
    (mayWriteY i = false → t.y = s.y) ∧ (mayWriteS i = false → t.sp = s.sp)

/-- 10_state R28 to R35: every bit of P is written by the instructions its rule lists and by no other; bit 4 by PLP and
RTI alone. That BRK writes no bit but Break is the spec's decision D6 (assumption 8). -/
def Obligations.StatusBitsWrittenOnlyByTheirInstructions : Prop :=
  ∀ (i : Instr) (s t : State) (k : Nat), exec i s = .next t → k < 8 → k ∉ flagsWritten i →
    t.p.getLsbD k = s.p.getLsbD k

/-- Every byte of memory an instruction does not store to is unchanged, for every instruction (10_state R38,
20_memory R51, R64); `storedTo` computes the addresses with the meanings' own functions. -/
def Obligations.MemoryWrittenOnlyWhereStored : Prop :=
  ∀ (i : Instr) (s t : State), exec i s = .next t → MemoryKeptBut (storedTo i s) s t

/-- 30_encoding R84: an instruction that does not set PC itself ends past its operand bytes; BIT, whose length is
open (assumption 3), is stated by `Obligations.BitUnderEitherPolicy`. -/
def Obligations.OtherInstructionsEndPastTheirOperands : Prop :=
  ∀ (i : Instr) (s t : State), exec i s = .next t → setsPc i = false → (∀ m, i ≠ .bit m) →
    t.pc = s.pc + BitVec.ofNat 16 (operandBytes i).length

/-- 10_state R30, R31, R32: InterruptDisable, DecimalMode, Break and bit 4 are storage: an instruction runs alike
whatever those four bits hold, and leaves them as they were. Left out: ADC and SBC, whose function is open and may read
DecimalMode (assumption 4); PHP, PLP, BRK and RTI, which push or load P; SEI, CLI, SED and CLD, which write one of the
four. -/
def Obligations.StorageBitsOfStatusAreNeverTested : Prop :=
  ∀ (i : Instr) (s t : State) (bits : Byte), bits &&& 0xC3 = 0 →
    (∀ m, i ≠ .adc m) → (∀ m, i ≠ .sbc m) →
    i ≠ .php → i ≠ .plp → i ≠ .brk → i ≠ .rti → i ≠ .sei → i ≠ .cli → i ≠ .sed → i ≠ .cld →
    exec i s = .next t → exec i { s with p := s.p ^^^ bits } = .next { t with p := t.p ^^^ bits }

/-- 20_memory R67, 70_reset_and_hazards R239: a store is seen by the very next fetch. -/
def Obligations.StoreIsSeenByNextFetch : Prop :=
  ∀ (s : State) (addr : Word),
    ∃ t, exec (.sta (.abs addr)) s = .next t ∧
      fetch (t.setPc addr) = decodeBytes s.a (s.read (addr + 1)) (s.read (addr + 2))

/-- 70_reset_and_hazards R231: the image is copied to 0x8000 upward, nothing else changes, and an image of more than
32768 bytes is refused (the spec's decision D14, assumption 15). -/
def Obligations.LoadProgramCopiesTheImage : Prop :=
  ∀ (bytes : List Byte) (s : State),
    (bytes.length ≤ 32768 →
      ∃ t, loadProgram bytes s = .next t ∧
        (∀ k, k < bytes.length → t.read (BitVec.ofNat 16 (32768 + k)) = bytes.getD k 0) ∧
        (∀ addr : Word, addr.toNat < 32768 ∨ 32768 + bytes.length ≤ addr.toNat → t.read addr = s.read addr) ∧
        t.a = s.a ∧ t.x = s.x ∧ t.y = s.y ∧ t.sp = s.sp ∧ t.p = s.p ∧ t.pc = s.pc) ∧
    (32768 < bytes.length → loadProgram bytes s = .refused (.imageTooLong bytes.length))
end

