-- ==== Sys2Proof/Laws/Bits.lean ====
section
/-! SUPPORT. The byte and word helpers as numbers. -/

namespace Sys2Proof.Machine

/-- `hi ++ lo` is `hi * 256 + lo` (00_scope R8). -/
theorem wordOf_toNat (hi lo : Byte) : (wordOf hi lo).toNat = 256 * hi.toNat + lo.toNat := by
  unfold wordOf
  rw [BitVec.toNat_append, Nat.shiftLeft_eq, Nat.mul_comm]
  have h := Nat.two_pow_add_eq_or_of_lt (i := 8) lo.isLt hi.toNat
  omega

theorem loByte_toNat (w : Word) : (loByte w).toNat = w.toNat % 256 := by simp [loByte]

theorem hiByte_toNat (w : Word) : (hiByte w).toNat = w.toNat / 256 := by
  have h := w.isLt
  simp [hiByte, Nat.shiftRight_eq_div_pow]
  omega

/-- Splitting a Word and joining it again. -/
theorem wordOf_parts (w : Word) : wordOf (hiByte w) (loByte w) = w := by
  apply BitVec.eq_of_toNat_eq
  rw [wordOf_toNat, loByte_toNat, hiByte_toNat]
  omega

theorem hiByte_wordOf (hi lo : Byte) : hiByte (wordOf hi lo) = hi := by
  apply BitVec.eq_of_toNat_eq
  rw [hiByte_toNat, wordOf_toNat]
  have h := lo.isLt
  omega

theorem loByte_wordOf (hi lo : Byte) : loByte (wordOf hi lo) = lo := by
  apply BitVec.eq_of_toNat_eq
  rw [loByte_toNat, wordOf_toNat]
  have h := lo.isLt
  omega

theorem zext16_eq (b : Byte) : zext16 b = BitVec.ofNat 16 b.toNat := by
  apply BitVec.eq_of_toNat_eq
  simp [zext16]

/-- `sext_16(b)` is b read as a signed number. -/
theorem sext16_eq (b : Byte) : sext16 b = BitVec.ofInt 16 b.toInt := by
  revert b
  decide

end Sys2Proof.Machine
end

