-- ==== Sys2Proof/Laws/Flags.lean ====
section
/-! SUPPORT. What each flag computation leaves in each bit of P. -/

namespace Sys2Proof.Machine

/-- A flag write sets its own bit and no other. -/
theorem setFlag_getLsbD (p : Byte) (f : Flag) (on : Bool) (k : Nat) :
    (setFlag p f on).getLsbD k = if k = flagPos f then on else p.getLsbD k := by
  have hpos : flagPos f < 8 := by cases f <;> decide
  by_cases hk : k < 8
  · cases on <;> by_cases h : k = flagPos f <;>
      simp [setFlag, flagMask, hk, hpos, h]
  · have h : k ≠ flagPos f := by omega
    rw [if_neg h, BitVec.getLsbD_of_ge _ _ (by omega), BitVec.getLsbD_of_ge _ _ (by omega)]

theorem getFlag_setFlag (p : Byte) (f g : Flag) (on : Bool) :
    getFlag (setFlag p f on) g = if g = f then on else getFlag p g := by
  have hinj : flagPos g = flagPos f ↔ g = f := by cases f <;> cases g <;> decide
  simp only [getFlag, setFlag_getLsbD, hinj]

/-- `setZN` writes bits 1 and 7 and no other. -/
theorem setZN_getLsbD (p v : Byte) (k : Nat) :
    (setZN p v).getLsbD k =
      if k = 7 then v.getLsbD 7 else if k = 1 then decide (v = 0) else p.getLsbD k := by
  simp only [setZN, setFlag_getLsbD, flagPos]
  rfl

/-- `compare` writes bits 0, 1 and 7 and no other. -/
theorem compareFlags_getLsbD (p r v : Byte) (k : Nat) :
    (compareFlags p r v).getLsbD k =
      if k = 7 then (r - v).getLsbD 7 else if k = 1 then decide (r = v)
      else if k = 0 then decide (v.toNat ≤ r.toNat) else p.getLsbD k := by
  simp only [compareFlags, setFlag_getLsbD, flagPos]
  rfl

theorem getFlag_setZN (p v : Byte) (f : Flag) :
    getFlag (setZN p v) f =
      match f with
      | .z => decide (v = 0)
      | .n => v.getLsbD 7
      | f => getFlag p f := by
  cases f <;> exact setZN_getLsbD p v _

theorem getFlag_compareFlags (p r v : Byte) (f : Flag) :
    getFlag (compareFlags p r v) f =
      match f with
      | .c => decide (v.toNat ≤ r.toNat)
      | .z => decide (r = v)
      | .n => (r - v).getLsbD 7
      | f => getFlag p f := by
  cases f <;> exact compareFlags_getLsbD p r v _

/-- The bit test writes bits 1, 6 and 7 and no other. -/
theorem bitFlags_getLsbD (p a v : Byte) (k : Nat) :
    (bitFlags p a v).getLsbD k =
      if k = 6 then v.getLsbD 6 else if k = 7 then v.getLsbD 7
      else if k = 1 then decide (a &&& v = 0) else p.getLsbD k := by
  simp only [bitFlags, setFlag_getLsbD, flagPos]
  rfl

theorem getFlag_bitFlags (p a v : Byte) (f : Flag) :
    getFlag (bitFlags p a v) f =
      match f with
      | .z => decide (a &&& v = 0)
      | .v => v.getLsbD 6
      | .n => v.getLsbD 7
      | f => getFlag p f := by
  cases f <;> exact bitFlags_getLsbD p a v _

/-- A shift writes bits 0, 1 and 7 and no other. -/
theorem shiftFlags_getLsbD (p : Byte) (r : Byte × Bool) (k : Nat) :
    (shiftFlags p r).getLsbD k =
      if k = 7 then r.1.getLsbD 7 else if k = 1 then decide (r.1 = 0)
      else if k = 0 then r.2 else p.getLsbD k := by
  simp only [shiftFlags, setZN_getLsbD, setFlag_getLsbD, flagPos]
  rfl

theorem getFlag_shiftFlags (p : Byte) (r : Byte × Bool) (f : Flag) :
    getFlag (shiftFlags p r) f =
      match f with
      | .c => r.2
      | .z => decide (r.1 = 0)
      | .n => r.1.getLsbD 7
      | f => getFlag p f := by
  cases f <;> exact shiftFlags_getLsbD p r _

/-- ADC and SBC write bits 0, 1, 6 and 7 and no other. -/
theorem addSubFlags_getLsbD (p : Byte) (r : AddSubResult) (k : Nat) :
    (addSubFlags p r).getLsbD k =
      if k = 7 then r.n else if k = 6 then r.v else if k = 1 then r.z
      else if k = 0 then r.c else p.getLsbD k := by
  simp only [addSubFlags, setFlag_getLsbD, flagPos]
  rfl

theorem getFlag_addSubFlags (p : Byte) (r : AddSubResult) (f : Flag) :
    getFlag (addSubFlags p r) f =
      match f with
      | .c => r.c
      | .z => r.z
      | .v => r.v
      | .n => r.n
      | f => getFlag p f := by
  cases f <;> exact addSubFlags_getLsbD p r _

/-- Bit 7 of a byte is its upper half. -/
theorem getLsbD_seven (v : Byte) : v.getLsbD 7 = decide (128 ≤ v.toNat) := by
  revert v
  decide

end Sys2Proof.Machine
end

