-- ==== Sys2Proof/Laws/State.lean ====
section
/-! SUPPORT. One lemma per field per update of State, and the same for the updates that write P or pc. -/

namespace Sys2Proof.Machine

variable (s : State)

@[simp] theorem State.setA_a (v : Byte) : (s.setA v).a = v := rfl
@[simp] theorem State.setA_x (v : Byte) : (s.setA v).x = s.x := rfl
@[simp] theorem State.setA_y (v : Byte) : (s.setA v).y = s.y := rfl
@[simp] theorem State.setA_sp (v : Byte) : (s.setA v).sp = s.sp := rfl
@[simp] theorem State.setA_p (v : Byte) : (s.setA v).p = s.p := rfl
@[simp] theorem State.setA_pc (v : Byte) : (s.setA v).pc = s.pc := rfl
@[simp] theorem State.setA_mem (v : Byte) : (s.setA v).mem = s.mem := rfl

@[simp] theorem State.setX_a (v : Byte) : (s.setX v).a = s.a := rfl
@[simp] theorem State.setX_x (v : Byte) : (s.setX v).x = v := rfl
@[simp] theorem State.setX_y (v : Byte) : (s.setX v).y = s.y := rfl
@[simp] theorem State.setX_sp (v : Byte) : (s.setX v).sp = s.sp := rfl
@[simp] theorem State.setX_p (v : Byte) : (s.setX v).p = s.p := rfl
@[simp] theorem State.setX_pc (v : Byte) : (s.setX v).pc = s.pc := rfl
@[simp] theorem State.setX_mem (v : Byte) : (s.setX v).mem = s.mem := rfl

@[simp] theorem State.setY_a (v : Byte) : (s.setY v).a = s.a := rfl
@[simp] theorem State.setY_x (v : Byte) : (s.setY v).x = s.x := rfl
@[simp] theorem State.setY_y (v : Byte) : (s.setY v).y = v := rfl
@[simp] theorem State.setY_sp (v : Byte) : (s.setY v).sp = s.sp := rfl
@[simp] theorem State.setY_p (v : Byte) : (s.setY v).p = s.p := rfl
@[simp] theorem State.setY_pc (v : Byte) : (s.setY v).pc = s.pc := rfl
@[simp] theorem State.setY_mem (v : Byte) : (s.setY v).mem = s.mem := rfl

@[simp] theorem State.setSp_a (v : Byte) : (s.setSp v).a = s.a := rfl
@[simp] theorem State.setSp_x (v : Byte) : (s.setSp v).x = s.x := rfl
@[simp] theorem State.setSp_y (v : Byte) : (s.setSp v).y = s.y := rfl
@[simp] theorem State.setSp_sp (v : Byte) : (s.setSp v).sp = v := rfl
@[simp] theorem State.setSp_p (v : Byte) : (s.setSp v).p = s.p := rfl
@[simp] theorem State.setSp_pc (v : Byte) : (s.setSp v).pc = s.pc := rfl
@[simp] theorem State.setSp_mem (v : Byte) : (s.setSp v).mem = s.mem := rfl

@[simp] theorem State.setP_a (v : Byte) : (s.setP v).a = s.a := rfl
@[simp] theorem State.setP_x (v : Byte) : (s.setP v).x = s.x := rfl
@[simp] theorem State.setP_y (v : Byte) : (s.setP v).y = s.y := rfl
@[simp] theorem State.setP_sp (v : Byte) : (s.setP v).sp = s.sp := rfl
@[simp] theorem State.setP_p (v : Byte) : (s.setP v).p = v := rfl
@[simp] theorem State.setP_pc (v : Byte) : (s.setP v).pc = s.pc := rfl
@[simp] theorem State.setP_mem (v : Byte) : (s.setP v).mem = s.mem := rfl

@[simp] theorem State.setPc_a (w : Word) : (s.setPc w).a = s.a := rfl
@[simp] theorem State.setPc_x (w : Word) : (s.setPc w).x = s.x := rfl
@[simp] theorem State.setPc_y (w : Word) : (s.setPc w).y = s.y := rfl
@[simp] theorem State.setPc_sp (w : Word) : (s.setPc w).sp = s.sp := rfl
@[simp] theorem State.setPc_p (w : Word) : (s.setPc w).p = s.p := rfl
@[simp] theorem State.setPc_pc (w : Word) : (s.setPc w).pc = w := rfl
@[simp] theorem State.setPc_mem (w : Word) : (s.setPc w).mem = s.mem := rfl

@[simp] theorem State.setMem_a (m : Memory) : (s.setMem m).a = s.a := rfl
@[simp] theorem State.setMem_x (m : Memory) : (s.setMem m).x = s.x := rfl
@[simp] theorem State.setMem_y (m : Memory) : (s.setMem m).y = s.y := rfl
@[simp] theorem State.setMem_sp (m : Memory) : (s.setMem m).sp = s.sp := rfl
@[simp] theorem State.setMem_p (m : Memory) : (s.setMem m).p = s.p := rfl
@[simp] theorem State.setMem_pc (m : Memory) : (s.setMem m).pc = s.pc := rfl
@[simp] theorem State.setMem_mem (m : Memory) : (s.setMem m).mem = m := rfl

@[simp] theorem State.advance_a (n : Word) : (s.advance n).a = s.a := rfl
@[simp] theorem State.advance_x (n : Word) : (s.advance n).x = s.x := rfl
@[simp] theorem State.advance_y (n : Word) : (s.advance n).y = s.y := rfl
@[simp] theorem State.advance_sp (n : Word) : (s.advance n).sp = s.sp := rfl
@[simp] theorem State.advance_p (n : Word) : (s.advance n).p = s.p := rfl
@[simp] theorem State.advance_pc (n : Word) : (s.advance n).pc = s.pc + n := rfl
@[simp] theorem State.advance_mem (n : Word) : (s.advance n).mem = s.mem := rfl

@[simp] theorem State.putFlag_a (f : Flag) (on : Bool) : (s.putFlag f on).a = s.a := rfl
@[simp] theorem State.putFlag_x (f : Flag) (on : Bool) : (s.putFlag f on).x = s.x := rfl
@[simp] theorem State.putFlag_y (f : Flag) (on : Bool) : (s.putFlag f on).y = s.y := rfl
@[simp] theorem State.putFlag_sp (f : Flag) (on : Bool) : (s.putFlag f on).sp = s.sp := rfl
@[simp] theorem State.putFlag_p (f : Flag) (on : Bool) : (s.putFlag f on).p = setFlag s.p f on := rfl
@[simp] theorem State.putFlag_pc (f : Flag) (on : Bool) : (s.putFlag f on).pc = s.pc := rfl
@[simp] theorem State.putFlag_mem (f : Flag) (on : Bool) : (s.putFlag f on).mem = s.mem := rfl

@[simp] theorem State.putZN_a (v : Byte) : (s.putZN v).a = s.a := rfl
@[simp] theorem State.putZN_x (v : Byte) : (s.putZN v).x = s.x := rfl
@[simp] theorem State.putZN_y (v : Byte) : (s.putZN v).y = s.y := rfl
@[simp] theorem State.putZN_sp (v : Byte) : (s.putZN v).sp = s.sp := rfl
@[simp] theorem State.putZN_p (v : Byte) : (s.putZN v).p = setZN s.p v := rfl
@[simp] theorem State.putZN_pc (v : Byte) : (s.putZN v).pc = s.pc := rfl
@[simp] theorem State.putZN_mem (v : Byte) : (s.putZN v).mem = s.mem := rfl

@[simp] theorem State.setA_read (v : Byte) (addr : Word) : (s.setA v).read addr = s.read addr := rfl
@[simp] theorem State.setX_read (v : Byte) (addr : Word) : (s.setX v).read addr = s.read addr := rfl
@[simp] theorem State.setY_read (v : Byte) (addr : Word) : (s.setY v).read addr = s.read addr := rfl
@[simp] theorem State.setSp_read (v : Byte) (addr : Word) : (s.setSp v).read addr = s.read addr := rfl
@[simp] theorem State.setP_read (v : Byte) (addr : Word) : (s.setP v).read addr = s.read addr := rfl
@[simp] theorem State.setPc_read (w : Word) (addr : Word) : (s.setPc w).read addr = s.read addr := rfl
@[simp] theorem State.advance_read (n : Word) (addr : Word) : (s.advance n).read addr = s.read addr := rfl
@[simp] theorem State.putFlag_read (f : Flag) (on : Bool) (addr : Word) : (s.putFlag f on).read addr = s.read addr := rfl
@[simp] theorem State.putZN_read (v : Byte) (addr : Word) : (s.putZN v).read addr = s.read addr := rfl

@[simp] theorem State.write_a (addr : Word) (v : Byte) : (s.write addr v).a = s.a := rfl
@[simp] theorem State.write_x (addr : Word) (v : Byte) : (s.write addr v).x = s.x := rfl
@[simp] theorem State.write_y (addr : Word) (v : Byte) : (s.write addr v).y = s.y := rfl
@[simp] theorem State.write_sp (addr : Word) (v : Byte) : (s.write addr v).sp = s.sp := rfl
@[simp] theorem State.write_p (addr : Word) (v : Byte) : (s.write addr v).p = s.p := rfl
@[simp] theorem State.write_pc (addr : Word) (v : Byte) : (s.write addr v).pc = s.pc := rfl
@[simp] theorem State.write_mem (addr : Word) (v : Byte) : (s.write addr v).mem = memPut s.mem addr.toNat v := rfl

end Sys2Proof.Machine
end

