-- ==== Sys2Proof/Laws/Memory.lean ====
section
/-! SUPPORT. Memory as data: reading after writing, the canonical form, and equality of canonical memories. -/

namespace Sys2Proof.Machine

/-! ## Reading after writing -/

theorem memGet_memErase (m : Memory) (a b : Nat) :
    memGet (memErase m a) b = if b = a then unlistedByte else memGet m b := by
  induction m with
  | nil => simp [memErase, memGet]
  | cons c rest ih =>
    obtain ⟨k, w⟩ := c
    have ih' : memGet (List.filter (fun c => decide (c.1 ≠ a)) rest) b
        = if b = a then unlistedByte else memGet rest b := ih
    by_cases hk : k = a
    · subst hk
      rw [memErase, List.filter_cons_of_neg (by simp), ih']
      split <;> simp_all [memGet, eq_comm]
    · rw [memErase, List.filter_cons_of_pos (by simpa using hk)]
      simp only [memGet, ih']
      split <;> simp_all

theorem memGet_memInsert (m : Memory) (a : Nat) (v : Byte) (b : Nat) :
    memGet (memInsert m a v) b = if b = a then v else memGet m b := by
  induction m with
  | nil => simp [memInsert, memGet, eq_comm]
  | cons c rest ih =>
    obtain ⟨k, w⟩ := c
    simp only [memInsert]
    split
    · simp [memGet, eq_comm]
    · split
      · simp_all [memGet, eq_comm]
      · simp only [memGet, ih]
        split <;> simp_all [eq_comm]

/-- A read after a write: the value written at that address, what was there at every other. -/
theorem memGet_memPut (m : Memory) (a : Nat) (v : Byte) (b : Nat) :
    memGet (memPut m a v) b = if b = a then v else memGet m b := by
  unfold memPut
  split
  · simp_all [memGet_memErase]
  · exact memGet_memInsert m a v b

/-! ## The canonical form -/

theorem memErase_wf {m : Memory} (a : Nat) (h : m.wf) : (memErase m a).wf :=
  ⟨h.1.filter _, fun c hc => h.2 c (List.mem_of_mem_filter hc)⟩

theorem mem_memInsert {m : Memory} {a : Nat} {v : Byte} {c : Host.Cell} (hc : c ∈ memInsert m a v) :
    c = (a, v) ∨ c ∈ m := by
  induction m with
  | nil => simpa [memInsert] using hc
  | cons d rest ih =>
    obtain ⟨k, w⟩ := d
    simp only [memInsert] at hc
    split at hc
    · simpa using hc
    · split at hc
      · rcases List.mem_cons.1 hc with h | h
        · exact .inl h
        · exact .inr (List.mem_cons_of_mem _ h)
      · rcases List.mem_cons.1 hc with h | h
        · exact .inr (h ▸ List.mem_cons_self)
        · exact (ih h).imp_right (List.mem_cons_of_mem _)

theorem memInsert_sorted {m : Memory} (a : Nat) (v : Byte) (h : m.Pairwise (fun c d => c.1 < d.1)) :
    (memInsert m a v).Pairwise (fun c d => c.1 < d.1) := by
  induction m with
  | nil => simp [memInsert]
  | cons d rest ih =>
    obtain ⟨k, w⟩ := d
    have hd := List.pairwise_cons.1 h
    simp only [memInsert]
    split
    · rename_i hak
      refine List.pairwise_cons.2 ⟨fun c hc => ?_, h⟩
      rcases List.mem_cons.1 hc with hc | hc
      · exact hc ▸ hak
      · exact Nat.lt_trans hak (hd.1 c hc)
    · rename_i hak
      split
      · rename_i heq
        exact List.pairwise_cons.2 ⟨fun c hc => heq ▸ hd.1 c hc, hd.2⟩
      · refine List.pairwise_cons.2 ⟨fun c hc => ?_, ih hd.2⟩
        rcases mem_memInsert hc with hc | hc
        · subst hc
          show k < a
          omega
        · exact hd.1 c hc

theorem memInsert_wf {m : Memory} {a : Nat} {v : Byte} (ha : a < 65536) (hv : v ≠ unlistedByte) (h : m.wf) :
    (memInsert m a v).wf := by
  refine ⟨memInsert_sorted a v h.1, fun c hc => ?_⟩
  rcases mem_memInsert hc with hc | hc
  · exact hc ▸ ⟨ha, hv⟩
  · exact h.2 c hc

/-- Writing a byte keeps the canonical form. -/
theorem memPut_wf {m : Memory} {a : Nat} (v : Byte) (ha : a < 65536) (h : m.wf) : (memPut m a v).wf := by
  unfold memPut
  split
  · exact memErase_wf a h
  · rename_i hv
    exact memInsert_wf ha hv h

theorem State.reset_mem_wf : State.reset.mem.wf := by decide

end Sys2Proof.Machine
end

