-- ==== Sys2Proof/Laws/Ops.lean ====
section
/-! SUPPORT. One lemma per shared operation that says what it does to memory and to S, and one that says it keeps the
canonical form. -/

namespace Sys2Proof.Machine

variable (s : State)

/-! ## One byte -/

theorem State.read_write (addr : Word) (v : Byte) (b : Word) :
    (s.write addr v).read b = if b = addr then v else s.read b := by
  unfold State.read State.write
  rw [State.setMem_mem, memGet_memPut]
  simp only [BitVec.toNat_inj]

theorem State.write_wf {s : State} (addr : Word) (v : Byte) (h : s.mem.wf) : (s.write addr v).mem.wf :=
  memPut_wf v addr.isLt h

/-! ## The stack -/

/-- Every stack access is in the stack page. -/
theorem stackAddr_toNat (sp : Byte) : (stackAddr sp).toNat = 256 + sp.toNat := by
  revert sp
  decide

theorem stackAddr_inj {p q : Byte} : stackAddr p = stackAddr q ↔ p = q := by
  constructor
  · intro h
    have := congrArg BitVec.toNat h
    rw [stackAddr_toNat, stackAddr_toNat] at this
    exact BitVec.eq_of_toNat_eq (by omega)
  · exact fun h => h ▸ rfl

/-- `push8` writes the slot at S and decrements S. -/
theorem State.push8_eq (v : Byte) : s.push8 v = (s.write (stackAddr s.sp) v).setSp (s.sp - 1) := rfl

theorem State.push8_read (v : Byte) (b : Word) :
    (s.push8 v).read b = if b = stackAddr s.sp then v else s.read b := by
  rw [State.push8_eq, State.setSp_read, State.read_write]

theorem State.push8_wf {s : State} (v : Byte) (h : s.mem.wf) : (s.push8 v).mem.wf :=
  State.write_wf (stackAddr s.sp) v h

/-- `pop8` reads the slot at S + 1 and increments S. -/
theorem State.pop8_eq : s.pop8 = (s.read (stackAddr (s.sp + 1)), s.setSp (s.sp + 1)) := rfl

/-- `push16` writes the high byte at S, the low byte at S - 1, and lowers S by 2. -/
theorem State.push16_eq (w : Word) :
    s.push16 w =
      ((s.write (stackAddr s.sp) (hiByte w)).write (stackAddr (s.sp - 1)) (loByte w)).setSp (s.sp - 1 - 1) := rfl

theorem State.push16_read (w : Word) (b : Word) :
    (s.push16 w).read b =
      if b = stackAddr (s.sp - 1) then loByte w else if b = stackAddr s.sp then hiByte w else s.read b := by
  rw [State.push16_eq, State.setSp_read, State.read_write, State.read_write]

theorem State.push16_wf {s : State} (w : Word) (h : s.mem.wf) : (s.push16 w).mem.wf :=
  State.push8_wf _ (State.push8_wf _ h)

/-- `pop16` reads the low byte at S + 1, the high byte at S + 2, and raises S by 2. -/
theorem State.pop16_eq :
    s.pop16 =
      (wordOf (s.read (stackAddr (s.sp + 1 + 1))) (s.read (stackAddr (s.sp + 1))), s.setSp (s.sp + 1 + 1)) := rfl

/-! ## The software interrupt -/

/-- What entering the software interrupt leaves in memory: the two bytes of the return PC, then P. -/
theorem State.enterInterrupt_read (ret b : Word) :
    (s.enterInterrupt ret).read b =
      if b = stackAddr (s.sp - 1 - 1) then s.p else if b = stackAddr (s.sp - 1) then loByte ret
      else if b = stackAddr s.sp then hiByte ret else s.read b := by
  show ((s.push16 ret).push8 s.p).read b = _
  rw [State.push8_read, State.push16_read]
  rfl

theorem State.enterInterrupt_wf {s : State} (ret : Word) (h : s.mem.wf) : (s.enterInterrupt ret).mem.wf :=
  State.push8_wf (s := s.push16 ret) _ (State.push16_wf _ h)

/-- Everything returning from the software interrupt does. -/
theorem State.leaveInterrupt_eq :
    s.leaveInterrupt =
      { s with
        p := s.read (stackAddr (s.sp + 1))
        sp := s.sp + 1 + 1 + 1
        pc := wordOf (s.read (stackAddr (s.sp + 1 + 1 + 1))) (s.read (stackAddr (s.sp + 1 + 1))) } := rfl

/-! ## The registers a shared operation leaves alone -/

@[simp] theorem State.push8_a (v : Byte) : (s.push8 v).a = s.a := rfl
@[simp] theorem State.push8_x (v : Byte) : (s.push8 v).x = s.x := rfl
@[simp] theorem State.push8_y (v : Byte) : (s.push8 v).y = s.y := rfl
@[simp] theorem State.push8_sp (v : Byte) : (s.push8 v).sp = s.sp - 1 := rfl
@[simp] theorem State.push8_p (v : Byte) : (s.push8 v).p = s.p := rfl
@[simp] theorem State.push8_pc (v : Byte) : (s.push8 v).pc = s.pc := rfl

@[simp] theorem State.push16_a (w : Word) : (s.push16 w).a = s.a := rfl
@[simp] theorem State.push16_x (w : Word) : (s.push16 w).x = s.x := rfl
@[simp] theorem State.push16_y (w : Word) : (s.push16 w).y = s.y := rfl
@[simp] theorem State.push16_sp (w : Word) : (s.push16 w).sp = s.sp - 1 - 1 := rfl
@[simp] theorem State.push16_p (w : Word) : (s.push16 w).p = s.p := rfl
@[simp] theorem State.push16_pc (w : Word) : (s.push16 w).pc = s.pc := rfl

@[simp] theorem State.pop8_a : (s.pop8.2).a = s.a := rfl
@[simp] theorem State.pop8_x : (s.pop8.2).x = s.x := rfl
@[simp] theorem State.pop8_y : (s.pop8.2).y = s.y := rfl
@[simp] theorem State.pop8_sp : (s.pop8.2).sp = s.sp + 1 := rfl
@[simp] theorem State.pop8_p : (s.pop8.2).p = s.p := rfl
@[simp] theorem State.pop8_pc : (s.pop8.2).pc = s.pc := rfl
@[simp] theorem State.pop8_mem : (s.pop8.2).mem = s.mem := rfl
@[simp] theorem State.pop8_read (addr : Word) : (s.pop8.2).read addr = s.read addr := rfl

@[simp] theorem State.pop16_a : (s.pop16.2).a = s.a := rfl
@[simp] theorem State.pop16_x : (s.pop16.2).x = s.x := rfl
@[simp] theorem State.pop16_y : (s.pop16.2).y = s.y := rfl
@[simp] theorem State.pop16_sp : (s.pop16.2).sp = s.sp + 1 + 1 := rfl
@[simp] theorem State.pop16_p : (s.pop16.2).p = s.p := rfl
@[simp] theorem State.pop16_pc : (s.pop16.2).pc = s.pc := rfl
@[simp] theorem State.pop16_mem : (s.pop16.2).mem = s.mem := rfl
@[simp] theorem State.pop16_read (addr : Word) : (s.pop16.2).read addr = s.read addr := rfl

@[simp] theorem State.enterInterrupt_a (ret : Word) : (s.enterInterrupt ret).a = s.a := rfl
@[simp] theorem State.enterInterrupt_x (ret : Word) : (s.enterInterrupt ret).x = s.x := rfl
@[simp] theorem State.enterInterrupt_y (ret : Word) : (s.enterInterrupt ret).y = s.y := rfl
@[simp] theorem State.enterInterrupt_sp (ret : Word) : (s.enterInterrupt ret).sp = s.sp - 1 - 1 - 1 := rfl
@[simp] theorem State.enterInterrupt_p (ret : Word) : (s.enterInterrupt ret).p = setFlag s.p .b true := rfl

/-- The vector is outside the stack page, so the pushes do not touch it. -/
theorem stackAddr_ne_of_le {sp : Byte} {addr : Word} (h : 512 ≤ addr.toNat) : addr ≠ stackAddr sp := by
  rintro rfl
  have hs := stackAddr_toNat sp
  have hl := sp.isLt
  omega

/-- PC is loaded from the vector as it was before the pushes. -/
theorem State.enterInterrupt_pc (ret : Word) :
    (s.enterInterrupt ret).pc = wordOf (s.read 0xFFFF) (s.read 0xFFFE) := by
  have h : ∀ b : Word, 512 ≤ b.toNat → ((s.push16 ret).push8 s.p).read b = s.read b := fun b hb => by
    rw [State.push8_read, State.push16_read, if_neg (stackAddr_ne_of_le hb), if_neg (stackAddr_ne_of_le hb),
      if_neg (stackAddr_ne_of_le hb)]
  show wordOf (((s.push16 ret).push8 s.p).read 0xFFFF) (((s.push16 ret).push8 s.p).read 0xFFFE) = _
  rw [h 0xFFFF (by decide), h 0xFFFE (by decide)]

/-! ## Operands -/

/-- `result` is a write at the effective address or to A, and never moves another register. -/
theorem result_cases (m : AddrMode) (v : Byte) :
    (∃ addr, ea m s = some addr ∧ result m v s = s.write addr v) ∨ (ea m s = none ∧ result m v s = s.setA v) := by
  unfold result
  cases h : ea m s with
  | none => exact .inr ⟨rfl, rfl⟩
  | some addr => exact .inl ⟨addr, rfl, rfl⟩

theorem result_wf {s : State} (m : AddrMode) (v : Byte) (h : s.mem.wf) : (result m v s).mem.wf := by
  rcases result_cases s m v with ⟨addr, -, e⟩ | ⟨-, e⟩ <;> rw [e]
  · exact State.write_wf addr v h
  · exact h

/-- The accumulator form is the only one without an effective address. -/
theorem ea_eq_none {m : AddrMode} {s : State} : ea m s = none ↔ m = .acc := by
  cases m <;> simp [ea]

/-! ## The fields after `result` -/

@[simp] theorem result_x (m : AddrMode) (v : Byte) : (result m v s).x = s.x := by
  rcases result_cases s m v with ⟨addr, -, e⟩ | ⟨-, e⟩ <;> rw [e] <;> rfl

@[simp] theorem result_y (m : AddrMode) (v : Byte) : (result m v s).y = s.y := by
  rcases result_cases s m v with ⟨addr, -, e⟩ | ⟨-, e⟩ <;> rw [e] <;> rfl

@[simp] theorem result_sp (m : AddrMode) (v : Byte) : (result m v s).sp = s.sp := by
  rcases result_cases s m v with ⟨addr, -, e⟩ | ⟨-, e⟩ <;> rw [e] <;> rfl

@[simp] theorem result_p (m : AddrMode) (v : Byte) : (result m v s).p = s.p := by
  rcases result_cases s m v with ⟨addr, -, e⟩ | ⟨-, e⟩ <;> rw [e] <;> rfl

@[simp] theorem result_pc (m : AddrMode) (v : Byte) : (result m v s).pc = s.pc := by
  rcases result_cases s m v with ⟨addr, -, e⟩ | ⟨-, e⟩ <;> rw [e] <;> rfl

/-- A memory form leaves A alone. -/
theorem result_a {m : AddrMode} {s : State} {addr : Word} (v : Byte) (h : ea m s = some addr) :
    (result m v s).a = s.a := by
  unfold result
  rw [h]
  rfl

/-- A memory form writes the byte at its effective address. -/
theorem result_read {m : AddrMode} {s : State} {addr : Word} (v : Byte) (h : ea m s = some addr) (b : Word) :
    (result m v s).read b = if b = addr then v else s.read b := by
  unfold result
  rw [h]
  exact State.read_write s addr v b

/-! ## Several bytes -/

theorem State.writeBytes_wf {s : State} (addr : Word) (bytes : List Byte) (h : s.mem.wf) :
    (s.writeBytes addr bytes).mem.wf := by
  induction bytes generalizing s addr with
  | nil => exact h
  | cons v rest ih => exact ih (addr + 1) (State.write_wf addr v h)

end Sys2Proof.Machine
end

