-- ==== Sys2Proof/Laws/Meanings.lean ====
section
/-! SUPPORT. What each shared operation of the families does, as one record, and what the step is. -/

namespace Sys2Proof.Machine

variable (s : State) (m : AddrMode)

theorem accumulate_eq (f : Byte → Byte → Byte) :
    accumulate f m s =
      { s with a := f s.a (operand m s), p := setZN s.p (f s.a (operand m s)), pc := s.pc + nbytes m } := rfl

theorem compareWith_eq (r : Byte) :
    compareWith r m s = { s with p := compareFlags s.p r (operand m s), pc := s.pc + nbytes m } := rfl

theorem addSubWith_eq (f : AddSubOp → Byte → Byte → Byte → AddSubResult) (op : AddSubOp) :
    addSubWith f op m s =
      { s with
        a := (f op s.a (operand m s) s.p).a
        p := addSubFlags s.p (f op s.a (operand m s) s.p)
        pc := s.pc + nbytes m } := rfl

theorem branch_eq (cond : Bool) (off : Byte) :
    branch cond off s = { s with pc := if cond then s.pc + 1 + sext16 off else s.pc + 1 } := rfl

/-- BIT never faults with the core contract's `STRICT_DECODE`. -/
theorem bitTest_next (policy : BitPolicy) : bitTest false policy m s = .next (bitState policy m s) := rfl

/-- A shift of the accumulator. -/
theorem shiftWith_acc (f : Byte → Bool → Byte × Bool) :
    shiftWith f .acc s =
      { s with a := (f s.a (s.flag .c)).1, p := shiftFlags s.p (f s.a (s.flag .c)), pc := s.pc + 0 } := rfl

/-- A shift of the memory byte at the effective address. -/
theorem shiftWith_mem {m : AddrMode} {s : State} {addr : Word} (f : Byte → Bool → Byte × Bool)
    (h : ea m s = some addr) :
    shiftWith f m s =
      { s with
        mem := memPut s.mem addr.toNat (f (operand m s) (s.flag .c)).1
        p := shiftFlags s.p (f (operand m s) (s.flag .c))
        pc := s.pc + nbytes m } := by
  unfold shiftWith result
  rw [h]
  rfl

/-- An increment or decrement of the memory byte at the effective address. -/
theorem updateMemory_mem {m : AddrMode} {s : State} {addr : Word} (f : Byte → Byte) (h : ea m s = some addr) :
    updateMemory f m s =
      { s with
        mem := memPut s.mem addr.toNat (f (operand m s))
        p := setZN s.p (f (operand m s))
        pc := s.pc + nbytes m } := by
  unfold updateMemory result
  rw [h]
  rfl

/-- A store of a register at the effective address. -/
theorem result_advance {m : AddrMode} {s : State} {addr : Word} (v : Byte) (h : ea m s = some addr) :
    (result m v s).advance (nbytes m) =
      { s with mem := memPut s.mem addr.toNat v, pc := s.pc + nbytes m } := by
  unfold result
  rw [h]
  rfl

theorem step_eq : step s = exec (fetch s) (s.setPc (s.pc + 1)) := rfl

end Sys2Proof.Machine
end

