-- ==== Sys2Proof/Laws/PerInstr.lean ====
section
/-! SUPPORT. The per-instruction family `Encodable`: the well-formed instructions are exactly those the encoder gives
bytes for (30_encoding R88, R103). -/

namespace Sys2Proof.Laws

/-- An instruction is well-formed exactly when it has an encoding. -/
def Encodable.Statement (i : Instr) : Prop := i.wellFormed = (encode i).isSome

theorem Encodable.lda (m : AddrMode) : Encodable.Statement (.lda m) := by cases m <;> rfl

theorem Encodable.ldx (m : AddrMode) : Encodable.Statement (.ldx m) := by cases m <;> rfl

theorem Encodable.ldy (m : AddrMode) : Encodable.Statement (.ldy m) := by cases m <;> rfl

theorem Encodable.sta (m : AddrMode) : Encodable.Statement (.sta m) := by cases m <;> rfl

theorem Encodable.stx (m : AddrMode) : Encodable.Statement (.stx m) := by cases m <;> rfl

theorem Encodable.sty (m : AddrMode) : Encodable.Statement (.sty m) := by cases m <;> rfl

theorem Encodable.and (m : AddrMode) : Encodable.Statement (.and m) := by cases m <;> rfl

theorem Encodable.ora (m : AddrMode) : Encodable.Statement (.ora m) := by cases m <;> rfl

theorem Encodable.eor (m : AddrMode) : Encodable.Statement (.eor m) := by cases m <;> rfl

theorem Encodable.bit (m : AddrMode) : Encodable.Statement (.bit m) := by cases m <;> rfl

theorem Encodable.asl (m : AddrMode) : Encodable.Statement (.asl m) := by cases m <;> rfl

theorem Encodable.lsr (m : AddrMode) : Encodable.Statement (.lsr m) := by cases m <;> rfl

theorem Encodable.rol (m : AddrMode) : Encodable.Statement (.rol m) := by cases m <;> rfl

theorem Encodable.ror (m : AddrMode) : Encodable.Statement (.ror m) := by cases m <;> rfl

theorem Encodable.cmp (m : AddrMode) : Encodable.Statement (.cmp m) := by cases m <;> rfl

theorem Encodable.cpx (m : AddrMode) : Encodable.Statement (.cpx m) := by cases m <;> rfl

theorem Encodable.cpy (m : AddrMode) : Encodable.Statement (.cpy m) := by cases m <;> rfl

theorem Encodable.inc (m : AddrMode) : Encodable.Statement (.inc m) := by cases m <;> rfl

theorem Encodable.dec (m : AddrMode) : Encodable.Statement (.dec m) := by cases m <;> rfl

theorem Encodable.inx : Encodable.Statement .inx := rfl

theorem Encodable.iny : Encodable.Statement .iny := rfl

theorem Encodable.dex : Encodable.Statement .dex := rfl

theorem Encodable.dey : Encodable.Statement .dey := rfl

theorem Encodable.bcc (off : Byte) : Encodable.Statement (.bcc off) := rfl

theorem Encodable.bcs (off : Byte) : Encodable.Statement (.bcs off) := rfl

theorem Encodable.beq (off : Byte) : Encodable.Statement (.beq off) := rfl

theorem Encodable.bne (off : Byte) : Encodable.Statement (.bne off) := rfl

theorem Encodable.bmi (off : Byte) : Encodable.Statement (.bmi off) := rfl

theorem Encodable.bpl (off : Byte) : Encodable.Statement (.bpl off) := rfl

theorem Encodable.bvc (off : Byte) : Encodable.Statement (.bvc off) := rfl

theorem Encodable.bvs (off : Byte) : Encodable.Statement (.bvs off) := rfl

theorem Encodable.jmp (t : JumpTarget) : Encodable.Statement (.jmp t) := by cases t <;> rfl

theorem Encodable.jsr (target : Word) : Encodable.Statement (.jsr target) := rfl

theorem Encodable.rts : Encodable.Statement .rts := rfl

theorem Encodable.brk : Encodable.Statement .brk := rfl

theorem Encodable.rti : Encodable.Statement .rti := rfl

theorem Encodable.pha : Encodable.Statement .pha := rfl

theorem Encodable.php : Encodable.Statement .php := rfl

theorem Encodable.pla : Encodable.Statement .pla := rfl

theorem Encodable.plp : Encodable.Statement .plp := rfl

theorem Encodable.tax : Encodable.Statement .tax := rfl

theorem Encodable.txa : Encodable.Statement .txa := rfl

theorem Encodable.tay : Encodable.Statement .tay := rfl

theorem Encodable.tya : Encodable.Statement .tya := rfl

theorem Encodable.tsx : Encodable.Statement .tsx := rfl

theorem Encodable.txs : Encodable.Statement .txs := rfl

theorem Encodable.sec : Encodable.Statement .sec := rfl

theorem Encodable.clc : Encodable.Statement .clc := rfl

theorem Encodable.sei : Encodable.Statement .sei := rfl

theorem Encodable.cli : Encodable.Statement .cli := rfl

theorem Encodable.sed : Encodable.Statement .sed := rfl

theorem Encodable.cld : Encodable.Statement .cld := rfl

theorem Encodable.clv : Encodable.Statement .clv := rfl

theorem Encodable.nop : Encodable.Statement .nop := rfl

theorem Encodable.undefined (opc : Byte) : Encodable.Statement (.undefined opc) := by
  show undefinedBytes.contains opc =
    (Option.map (fun b => b :: []) (if undefinedBytes.contains opc then some opc else none)).isSome
  cases undefinedBytes.contains opc <;> rfl

theorem Encodable.adc (m : AddrMode) : Encodable.Statement (.adc m) := by cases m <;> rfl

theorem Encodable.sbc (m : AddrMode) : Encodable.Statement (.sbc m) := by cases m <;> rfl

end Sys2Proof.Laws
end

