-- ==== Sys2Proof/Tests/Slice0.lean ====
section
/-! SUPPORT. The model's own tests. Expected values come from the spec: vectors by their id in 95_test_vectors, encodings
from 30_encoding R88, examples by their rule. Then the witnesses of the statements' hypotheses. -/

namespace Sys2Proof.Tests

open Sys2Proof Sys2Proof.Machine

/-! ## Ill-formed operand forms are refused, one for each check of Sys2Proof/WellFormed.lean -/

-- 40_load_store R110 has no accumulator form
theorem test_illformed_alu_accumulator : ((.lda .acc : Instr).wellFormed = false) ∧ encode (.lda .acc) = none := by decide
-- 43_compare R141 has no zpy form
theorem test_illformed_alu_zpy : ((.cmp (.zpy 0x10) : Instr).wellFormed = false) ∧ encode (.cmp (.zpy 0x10)) = none := by decide
-- 40_load_store R113: "There is no Immediate form."
theorem test_illformed_sta_immediate : ((.sta (.imm 0x10) : Instr).wellFormed = false) ∧ encode (.sta (.imm 0x10)) = none := by decide
-- 40_load_store R111 indexes by Y
theorem test_illformed_ldx_zpx : ((.ldx (.zpx 0x10) : Instr).wellFormed = false) ∧ encode (.ldx (.zpx 0x10)) = none := by decide
-- 40_load_store R112 indexes by X
theorem test_illformed_ldy_zpy : ((.ldy (.zpy 0x10) : Instr).wellFormed = false) ∧ encode (.ldy (.zpy 0x10)) = none := by decide
-- 40_load_store R114 has zp, zpy, abs
theorem test_illformed_stx_absy : ((.stx (.absy 0x1234) : Instr).wellFormed = false) ∧ encode (.stx (.absy 0x1234)) = none := by decide
-- 40_load_store R115 has zp, zpx, abs
theorem test_illformed_sty_absx : ((.sty (.absx 0x1234) : Instr).wellFormed = false) ∧ encode (.sty (.absx 0x1234)) = none := by decide
-- 41_logical R123 has zp, abs
theorem test_illformed_bit_immediate : ((.bit (.imm 0x10) : Instr).wellFormed = false) ∧ encode (.bit (.imm 0x10)) = none := by decide
-- 42_shift_rotate R130 has no absy form
theorem test_illformed_shift_absy : ((.asl (.absy 0x1234) : Instr).wellFormed = false) ∧ encode (.asl (.absy 0x1234)) = none := by decide
-- 43_compare R142 has imm, zp, abs
theorem test_illformed_cpx_zpx : ((.cpx (.zpx 0x10) : Instr).wellFormed = false) ∧ encode (.cpx (.zpx 0x10)) = none := by decide
-- 44_inc_dec R150: "There is no accumulator form."
theorem test_illformed_inc_accumulator : ((.inc .acc : Instr).wellFormed = false) ∧ encode (.inc .acc) = none := by decide
-- 30_encoding R88: 0xA9 is LDA
theorem test_illformed_undefined_defined : ((.undefined 0xA9 : Instr).wellFormed = false) ∧ encode (.undefined 0xA9) = none := by decide

/-! ## One word per row of the opcode table (30_encoding R88) decodes to its instruction -/

theorem test_decode_lda :
    decodeBytes 0xA1 0x8E 0x00 = .lda (.indx 0x8E) ∧
    decodeBytes 0xA5 0x8E 0x00 = .lda (.zp 0x8E) ∧
    decodeBytes 0xA9 0x8E 0x00 = .lda (.imm 0x8E) ∧
    decodeBytes 0xAD 0xF1 0x92 = .lda (.abs 0x92F1) ∧
    decodeBytes 0xB1 0x8E 0x00 = .lda (.indy 0x8E) ∧
    decodeBytes 0xB5 0x8E 0x00 = .lda (.zpx 0x8E) ∧
    decodeBytes 0xB9 0xF1 0x92 = .lda (.absy 0x92F1) ∧
    decodeBytes 0xBD 0xF1 0x92 = .lda (.absx 0x92F1) := by decide
theorem test_decode_ldx :
    decodeBytes 0xA2 0x8E 0x00 = .ldx (.imm 0x8E) ∧
    decodeBytes 0xA6 0x8E 0x00 = .ldx (.zp 0x8E) ∧
    decodeBytes 0xAE 0xF1 0x92 = .ldx (.abs 0x92F1) ∧
    decodeBytes 0xB6 0x8E 0x00 = .ldx (.zpy 0x8E) ∧
    decodeBytes 0xBE 0xF1 0x92 = .ldx (.absy 0x92F1) := by decide
theorem test_decode_ldy :
    decodeBytes 0xA0 0x8E 0x00 = .ldy (.imm 0x8E) ∧
    decodeBytes 0xA4 0x8E 0x00 = .ldy (.zp 0x8E) ∧
    decodeBytes 0xAC 0xF1 0x92 = .ldy (.abs 0x92F1) ∧
    decodeBytes 0xB4 0x8E 0x00 = .ldy (.zpx 0x8E) ∧
    decodeBytes 0xBC 0xF1 0x92 = .ldy (.absx 0x92F1) := by decide
theorem test_decode_sta :
    decodeBytes 0x81 0x8E 0x00 = .sta (.indx 0x8E) ∧
    decodeBytes 0x85 0x8E 0x00 = .sta (.zp 0x8E) ∧
    decodeBytes 0x8D 0xF1 0x92 = .sta (.abs 0x92F1) ∧
    decodeBytes 0x91 0x8E 0x00 = .sta (.indy 0x8E) ∧
    decodeBytes 0x95 0x8E 0x00 = .sta (.zpx 0x8E) ∧
    decodeBytes 0x99 0xF1 0x92 = .sta (.absy 0x92F1) ∧
    decodeBytes 0x9D 0xF1 0x92 = .sta (.absx 0x92F1) := by decide
theorem test_decode_stx :
    decodeBytes 0x86 0x8E 0x00 = .stx (.zp 0x8E) ∧
    decodeBytes 0x8E 0xF1 0x92 = .stx (.abs 0x92F1) ∧
    decodeBytes 0x96 0x8E 0x00 = .stx (.zpy 0x8E) := by decide
theorem test_decode_sty :
    decodeBytes 0x84 0x8E 0x00 = .sty (.zp 0x8E) ∧
    decodeBytes 0x8C 0xF1 0x92 = .sty (.abs 0x92F1) ∧
    decodeBytes 0x94 0x8E 0x00 = .sty (.zpx 0x8E) := by decide
theorem test_decode_and :
    decodeBytes 0x21 0x8E 0x00 = .and (.indx 0x8E) ∧
    decodeBytes 0x25 0x8E 0x00 = .and (.zp 0x8E) ∧
    decodeBytes 0x29 0x8E 0x00 = .and (.imm 0x8E) ∧
    decodeBytes 0x2D 0xF1 0x92 = .and (.abs 0x92F1) ∧
    decodeBytes 0x31 0x8E 0x00 = .and (.indy 0x8E) ∧
    decodeBytes 0x35 0x8E 0x00 = .and (.zpx 0x8E) ∧
    decodeBytes 0x39 0xF1 0x92 = .and (.absy 0x92F1) ∧
    decodeBytes 0x3D 0xF1 0x92 = .and (.absx 0x92F1) := by decide
theorem test_decode_ora :
    decodeBytes 0x01 0x8E 0x00 = .ora (.indx 0x8E) ∧
    decodeBytes 0x05 0x8E 0x00 = .ora (.zp 0x8E) ∧
    decodeBytes 0x09 0x8E 0x00 = .ora (.imm 0x8E) ∧
    decodeBytes 0x0D 0xF1 0x92 = .ora (.abs 0x92F1) ∧
    decodeBytes 0x11 0x8E 0x00 = .ora (.indy 0x8E) ∧
    decodeBytes 0x15 0x8E 0x00 = .ora (.zpx 0x8E) ∧
    decodeBytes 0x19 0xF1 0x92 = .ora (.absy 0x92F1) ∧
    decodeBytes 0x1D 0xF1 0x92 = .ora (.absx 0x92F1) := by decide
theorem test_decode_eor :
    decodeBytes 0x41 0x8E 0x00 = .eor (.indx 0x8E) ∧
    decodeBytes 0x45 0x8E 0x00 = .eor (.zp 0x8E) ∧
    decodeBytes 0x49 0x8E 0x00 = .eor (.imm 0x8E) ∧
    decodeBytes 0x4D 0xF1 0x92 = .eor (.abs 0x92F1) ∧
    decodeBytes 0x51 0x8E 0x00 = .eor (.indy 0x8E) ∧
    decodeBytes 0x55 0x8E 0x00 = .eor (.zpx 0x8E) ∧
    decodeBytes 0x59 0xF1 0x92 = .eor (.absy 0x92F1) ∧
    decodeBytes 0x5D 0xF1 0x92 = .eor (.absx 0x92F1) := by decide
theorem test_decode_bit :
    decodeBytes 0x24 0x8E 0x00 = .bit (.zp 0x8E) ∧
    decodeBytes 0x2C 0xF1 0x92 = .bit (.abs 0x92F1) := by decide
theorem test_decode_asl :
    decodeBytes 0x06 0x8E 0x00 = .asl (.zp 0x8E) ∧
    decodeBytes 0x0A 0x00 0x00 = .asl .acc ∧
    decodeBytes 0x0E 0xF1 0x92 = .asl (.abs 0x92F1) ∧
    decodeBytes 0x16 0x8E 0x00 = .asl (.zpx 0x8E) ∧
    decodeBytes 0x1E 0xF1 0x92 = .asl (.absx 0x92F1) := by decide
theorem test_decode_lsr :
    decodeBytes 0x46 0x8E 0x00 = .lsr (.zp 0x8E) ∧
    decodeBytes 0x4A 0x00 0x00 = .lsr .acc ∧
    decodeBytes 0x4E 0xF1 0x92 = .lsr (.abs 0x92F1) ∧
    decodeBytes 0x56 0x8E 0x00 = .lsr (.zpx 0x8E) ∧
    decodeBytes 0x5E 0xF1 0x92 = .lsr (.absx 0x92F1) := by decide
theorem test_decode_rol :
    decodeBytes 0x26 0x8E 0x00 = .rol (.zp 0x8E) ∧
    decodeBytes 0x2A 0x00 0x00 = .rol .acc ∧
    decodeBytes 0x2E 0xF1 0x92 = .rol (.abs 0x92F1) ∧
    decodeBytes 0x36 0x8E 0x00 = .rol (.zpx 0x8E) ∧
    decodeBytes 0x3E 0xF1 0x92 = .rol (.absx 0x92F1) := by decide
theorem test_decode_ror :
    decodeBytes 0x66 0x8E 0x00 = .ror (.zp 0x8E) ∧
    decodeBytes 0x6A 0x00 0x00 = .ror .acc ∧
    decodeBytes 0x6E 0xF1 0x92 = .ror (.abs 0x92F1) ∧
    decodeBytes 0x76 0x8E 0x00 = .ror (.zpx 0x8E) ∧
    decodeBytes 0x7E 0xF1 0x92 = .ror (.absx 0x92F1) := by decide
theorem test_decode_cmp :
    decodeBytes 0xC1 0x8E 0x00 = .cmp (.indx 0x8E) ∧
    decodeBytes 0xC5 0x8E 0x00 = .cmp (.zp 0x8E) ∧
    decodeBytes 0xC9 0x8E 0x00 = .cmp (.imm 0x8E) ∧
    decodeBytes 0xCD 0xF1 0x92 = .cmp (.abs 0x92F1) ∧
    decodeBytes 0xD1 0x8E 0x00 = .cmp (.indy 0x8E) ∧
    decodeBytes 0xD5 0x8E 0x00 = .cmp (.zpx 0x8E) ∧
    decodeBytes 0xD9 0xF1 0x92 = .cmp (.absy 0x92F1) ∧
    decodeBytes 0xDD 0xF1 0x92 = .cmp (.absx 0x92F1) := by decide
theorem test_decode_cpx :
    decodeBytes 0xE0 0x8E 0x00 = .cpx (.imm 0x8E) ∧
    decodeBytes 0xE4 0x8E 0x00 = .cpx (.zp 0x8E) ∧
    decodeBytes 0xEC 0xF1 0x92 = .cpx (.abs 0x92F1) := by decide
theorem test_decode_cpy :
    decodeBytes 0xC0 0x8E 0x00 = .cpy (.imm 0x8E) ∧
    decodeBytes 0xC4 0x8E 0x00 = .cpy (.zp 0x8E) ∧
    decodeBytes 0xCC 0xF1 0x92 = .cpy (.abs 0x92F1) := by decide
theorem test_decode_inc :
    decodeBytes 0xE6 0x8E 0x00 = .inc (.zp 0x8E) ∧
    decodeBytes 0xEE 0xF1 0x92 = .inc (.abs 0x92F1) ∧
    decodeBytes 0xF6 0x8E 0x00 = .inc (.zpx 0x8E) ∧
    decodeBytes 0xFE 0xF1 0x92 = .inc (.absx 0x92F1) := by decide
theorem test_decode_dec :
    decodeBytes 0xC6 0x8E 0x00 = .dec (.zp 0x8E) ∧
    decodeBytes 0xCE 0xF1 0x92 = .dec (.abs 0x92F1) ∧
    decodeBytes 0xD6 0x8E 0x00 = .dec (.zpx 0x8E) ∧
    decodeBytes 0xDE 0xF1 0x92 = .dec (.absx 0x92F1) := by decide
theorem test_decode_inx :
    decodeBytes 0xE8 0x00 0x00 = .inx := by decide
theorem test_decode_iny :
    decodeBytes 0xC8 0x00 0x00 = .iny := by decide
theorem test_decode_dex :
    decodeBytes 0xCA 0x00 0x00 = .dex := by decide
theorem test_decode_dey :
    decodeBytes 0x88 0x00 0x00 = .dey := by decide
theorem test_decode_bcc :
    decodeBytes 0x90 0x9C 0x00 = .bcc 0x9C := by decide
theorem test_decode_bcs :
    decodeBytes 0xB0 0x9C 0x00 = .bcs 0x9C := by decide
theorem test_decode_beq :
    decodeBytes 0xF0 0x9C 0x00 = .beq 0x9C := by decide
theorem test_decode_bne :
    decodeBytes 0xD0 0x9C 0x00 = .bne 0x9C := by decide
theorem test_decode_bmi :
    decodeBytes 0x30 0x9C 0x00 = .bmi 0x9C := by decide
theorem test_decode_bpl :
    decodeBytes 0x10 0x9C 0x00 = .bpl 0x9C := by decide
theorem test_decode_bvc :
    decodeBytes 0x50 0x9C 0x00 = .bvc 0x9C := by decide
theorem test_decode_bvs :
    decodeBytes 0x70 0x9C 0x00 = .bvs 0x9C := by decide
theorem test_decode_jmp :
    decodeBytes 0x4C 0xF1 0x92 = .jmp (.abs 0x92F1) ∧
    decodeBytes 0x6C 0xF1 0x92 = .jmp (.ind 0x92F1) := by decide
theorem test_decode_jsr :
    decodeBytes 0x20 0xF1 0x92 = .jsr 0x92F1 := by decide
theorem test_decode_rts :
    decodeBytes 0x60 0x00 0x00 = .rts := by decide
theorem test_decode_brk :
    decodeBytes 0x00 0x00 0x00 = .brk := by decide
theorem test_decode_rti :
    decodeBytes 0x40 0x00 0x00 = .rti := by decide
theorem test_decode_pha :
    decodeBytes 0x48 0x00 0x00 = .pha := by decide
theorem test_decode_php :
    decodeBytes 0x08 0x00 0x00 = .php := by decide
theorem test_decode_pla :
    decodeBytes 0x68 0x00 0x00 = .pla := by decide
theorem test_decode_plp :
    decodeBytes 0x28 0x00 0x00 = .plp := by decide
theorem test_decode_tax :
    decodeBytes 0xAA 0x00 0x00 = .tax := by decide
theorem test_decode_txa :
    decodeBytes 0x8A 0x00 0x00 = .txa := by decide
theorem test_decode_tay :
    decodeBytes 0xA8 0x00 0x00 = .tay := by decide
theorem test_decode_tya :
    decodeBytes 0x98 0x00 0x00 = .tya := by decide
theorem test_decode_tsx :
    decodeBytes 0xBA 0x00 0x00 = .tsx := by decide
theorem test_decode_txs :
    decodeBytes 0x9A 0x00 0x00 = .txs := by decide
theorem test_decode_sec :
    decodeBytes 0x38 0x00 0x00 = .sec := by decide
theorem test_decode_clc :
    decodeBytes 0x18 0x00 0x00 = .clc := by decide
theorem test_decode_sei :
    decodeBytes 0x78 0x00 0x00 = .sei := by decide
theorem test_decode_cli :
    decodeBytes 0x58 0x00 0x00 = .cli := by decide
theorem test_decode_sed :
    decodeBytes 0xF8 0x00 0x00 = .sed := by decide
theorem test_decode_cld :
    decodeBytes 0xD8 0x00 0x00 = .cld := by decide
theorem test_decode_clv :
    decodeBytes 0xB8 0x00 0x00 = .clv := by decide
theorem test_decode_nop :
    decodeBytes 0xEA 0x00 0x00 = .nop := by decide
theorem test_decode_adc :
    decodeBytes 0x61 0x8E 0x00 = .adc (.indx 0x8E) ∧
    decodeBytes 0x65 0x8E 0x00 = .adc (.zp 0x8E) ∧
    decodeBytes 0x69 0x8E 0x00 = .adc (.imm 0x8E) ∧
    decodeBytes 0x6D 0xF1 0x92 = .adc (.abs 0x92F1) ∧
    decodeBytes 0x71 0x8E 0x00 = .adc (.indy 0x8E) ∧
    decodeBytes 0x75 0x8E 0x00 = .adc (.zpx 0x8E) ∧
    decodeBytes 0x79 0xF1 0x92 = .adc (.absy 0x92F1) ∧
    decodeBytes 0x7D 0xF1 0x92 = .adc (.absx 0x92F1) := by decide
theorem test_decode_sbc :
    decodeBytes 0xE1 0x8E 0x00 = .sbc (.indx 0x8E) ∧
    decodeBytes 0xE5 0x8E 0x00 = .sbc (.zp 0x8E) ∧
    decodeBytes 0xE9 0x8E 0x00 = .sbc (.imm 0x8E) ∧
    decodeBytes 0xED 0xF1 0x92 = .sbc (.abs 0x92F1) ∧
    decodeBytes 0xF1 0x8E 0x00 = .sbc (.indy 0x8E) ∧
    decodeBytes 0xF5 0x8E 0x00 = .sbc (.zpx 0x8E) ∧
    decodeBytes 0xF9 0xF1 0x92 = .sbc (.absy 0x92F1) ∧
    decodeBytes 0xFD 0xF1 0x92 = .sbc (.absx 0x92F1) := by decide
-- 48_flag_nop R199: 105 bytes, each a one-byte instruction
theorem test_decode_undefined :
    undefinedBytes.length = 105 ∧ undefinedBytes.all (fun b => decide (decodeBytes b 0x8E 0x00 = .undefined b)) = true := by
  decide
-- 30_encoding R82, R85: the length follows the opcode byte, and a stream that ends too early has no instruction
theorem test_decode_stream :
    decode [0xA9, 0xC0, 0xAA] = .ok (.lda (.imm 0xC0), [0xAA]) ∧ decode [0x20, 0x50] = .error (.missingOperand 0x20) ∧
    decode [] = .error .noOpcode := ⟨rfl, rfl, rfl⟩

/-! ## One step on a small state -/

/-- A state with some bytes of memory set, then code at an address, and pc there. -/
def given (s : State) (mem : List (Word × Byte)) (pc : Word) (code : List Byte) : State :=
  ((mem.foldl (fun t c => t.write c.1 c.2) s).writeBytes pc code).setPc pc

/-- The outcome is the next state with the registers of `e` and the memory of `s` with `stored` written over it. -/
def leads (o : Host.Outcome State Fault Refusal) (s e : State) (stored : List (Word × Byte)) : Bool :=
  match o with
  | .next t => decide ({ t with mem := [] } = { e with mem := [] } ∧
      t.mem = (stored.foldl (fun u c => u.write c.1 c.2) s).mem)
  | .fault _ => false
  | .refused _ => false

/-- `step` leads there. -/
def gives (s e : State) (stored : List (Word × Byte)) : Bool := leads (step s) s e stored

-- AM3: imm; stale Z and N both cleared
theorem test_lda_am3 :
    gives (given { State.reset with p := 0x82 } [] 0x8000 [0xA9, 0x7F])
      { State.reset with a := 0x7F, pc := 0x8002 } [] = true := by decide
-- AM11: indx: pointer 0xFF, high byte from 0x0000
theorem test_lda_am11 :
    gives (given { State.reset with x := 0x01 } [(0x00FF, 0x34), (0x0000, 0x12), (0x0100, 0x99), (0x1234, 0xA5)] 0x8000 [0xA1, 0xFE])
      { State.reset with a := 0xA5, x := 0x01, p := 0x80, pc := 0x8002 } [] = true := by decide
-- AM6: zpy wraps to 0x0000
theorem test_ldx_am6 :
    gives (given { State.reset with y := 0x01 } [(0x0000, 0x42), (0x0100, 0x99)] 0x8000 [0xB6, 0xFF])
      { State.reset with x := 0x42, y := 0x01, pc := 0x8002 } [] = true := by decide
-- AM20: LDX absy
theorem test_ldx_am20 :
    gives (given { State.reset with y := 0x05 } [(0x2005, 0x81)] 0x8000 [0xBE, 0x00, 0x20])
      { State.reset with x := 0x81, y := 0x05, p := 0x80, pc := 0x8003 } [] = true := by decide
-- AM21: LDY imm
theorem test_ldy_am21 :
    gives (given State.reset [] 0x8000 [0xA0, 0xFF])
      { State.reset with y := 0xFF, p := 0x80, pc := 0x8002 } [] = true := by decide
-- AM22: LDY zpx wraps to 0x0000
theorem test_ldy_am22 :
    gives (given { State.reset with x := 0x80 } [(0x0000, 0x07)] 0x8000 [0xB4, 0x80])
      { State.reset with x := 0x80, y := 0x07, pc := 0x8002 } [] = true := by decide
-- AM23: STA zp: flags untouched though A = 0
theorem test_sta_am23 :
    gives (given { State.reset with a := 0x00, p := 0x80 } [] 0x8000 [0x85, 0x10])
      { State.reset with p := 0x80, pc := 0x8002 } [(0x0010, 0x00)] = true := by decide
-- AM25: STA abs overwrites its own opcode byte
theorem test_sta_am25 :
    gives (given { State.reset with a := 0xEA } [] 0x8000 [0x8D, 0x00, 0x80])
      { State.reset with a := 0xEA, pc := 0x8003 } [(0x8000, 0xEA)] = true := by decide
-- AM30: STX zp, no flags
theorem test_stx_am30 :
    gives (given { State.reset with x := 0x80 } [] 0x8000 [0x86, 0x10])
      { State.reset with x := 0x80, pc := 0x8002 } [(0x0010, 0x80)] = true := by decide
-- AM31: STX zpy wraps to 0x0000
theorem test_stx_am31 :
    gives (given { State.reset with x := 0x81, y := 0xF0 } [] 0x8000 [0x96, 0x10])
      { State.reset with x := 0x81, y := 0xF0, pc := 0x8002 } [(0x0000, 0x81)] = true := by decide
-- AM32: STY abs into the vector area: an ordinary write
theorem test_sty_am32 :
    gives (given { State.reset with y := 0x20 } [] 0x8000 [0x8C, 0xFE, 0xFF])
      { State.reset with y := 0x20, pc := 0x8003 } [(0xFFFE, 0x20)] = true := by decide
-- AM33: STY zpx
theorem test_sty_am33 :
    gives (given { State.reset with y := 0x09, x := 0x01 } [] 0x8000 [0x94, 0x10])
      { State.reset with x := 0x01, y := 0x09, pc := 0x8002 } [(0x0011, 0x09)] = true := by decide
-- LG1: AND to zero
theorem test_and_lg1 :
    gives (given { State.reset with a := 0xF0 } [] 0x8000 [0x29, 0x0F])
      { State.reset with p := 0x02, pc := 0x8002 } [] = true := by decide
-- LG2: AND with 0xFF still recomputes Z, N
theorem test_and_lg2 :
    gives (given { State.reset with a := 0x80, p := 0x02 } [] 0x8000 [0x29, 0xFF])
      { State.reset with a := 0x80, p := 0x80, pc := 0x8002 } [] = true := by decide
-- LG5: ORA zero with zero: Z=1, N cleared
theorem test_ora_lg5 :
    gives (given { State.reset with a := 0x00, p := 0x80 } [] 0x8000 [0x09, 0x00])
      { State.reset with p := 0x02, pc := 0x8002 } [] = true := by decide
-- LG6: ORA absx
theorem test_ora_lg6 :
    gives (given { State.reset with a := 0x0F, x := 0x01 } [(0x3001, 0xF0)] 0x8000 [0x1D, 0x00, 0x30])
      { State.reset with a := 0xFF, x := 0x01, p := 0x80, pc := 0x8003 } [] = true := by decide
-- LG8: EOR with itself: Z=1; C, V kept
theorem test_eor_lg8 :
    gives (given { State.reset with a := 0x5A, p := 0xC1 } [] 0x8000 [0x49, 0x5A])
      { State.reset with p := 0x43, pc := 0x8002 } [] = true := by decide
-- LG9: EOR indy
theorem test_eor_lg9 :
    gives (given { State.reset with a := 0xFF, y := 0x02 } [(0x0010, 0x00), (0x0011, 0x20), (0x2002, 0x7F)] 0x8000 [0x51, 0x10])
      { State.reset with a := 0x80, y := 0x02, p := 0x80, pc := 0x8002 } [] = true := by decide
-- SH1: ASL A: bit 7 to C, result 0
theorem test_asl_sh1 :
    gives (given { State.reset with a := 0x80 } [] 0x8000 [0x0A])
      { State.reset with p := 0x03, pc := 0x8001 } [] = true := by decide
-- SH3: ASL zp
theorem test_asl_sh3 :
    gives (given State.reset [(0x0010, 0xFF)] 0x8000 [0x06, 0x10])
      { State.reset with p := 0x81, pc := 0x8002 } [(0x0010, 0xFE)] = true := by decide
-- SH5: LSR A: bit 0 to C, result 0, N cleared
theorem test_lsr_sh5 :
    gives (given { State.reset with a := 0x01, p := 0x80 } [] 0x8000 [0x4A])
      { State.reset with p := 0x03, pc := 0x8001 } [] = true := by decide
-- SH7: LSR zp: C cleared
theorem test_lsr_sh7 :
    gives (given { State.reset with p := 0x01 } [(0x0010, 0x02)] 0x8000 [0x46, 0x10])
      { State.reset with pc := 0x8002 } [(0x0010, 0x01)] = true := by decide
-- SH8: ROL A: old C into bit 0, bit 7 to C
theorem test_rol_sh8 :
    gives (given { State.reset with a := 0x80, p := 0x01 } [] 0x8000 [0x2A])
      { State.reset with a := 0x01, p := 0x01, pc := 0x8001 } [] = true := by decide
-- SH10: ROL zp
theorem test_rol_sh10 :
    gives (given { State.reset with p := 0x01 } [(0x0010, 0x40)] 0x8000 [0x26, 0x10])
      { State.reset with p := 0x80, pc := 0x8002 } [(0x0010, 0x81)] = true := by decide
-- SH11: ROR A: old C into bit 7, bit 0 to C
theorem test_ror_sh11 :
    gives (given { State.reset with a := 0x01, p := 0x01 } [] 0x8000 [0x6A])
      { State.reset with a := 0x80, p := 0x81, pc := 0x8001 } [] = true := by decide
-- SH14: ROR zpx
theorem test_ror_sh14 :
    gives (given { State.reset with x := 0x01, p := 0x00 } [(0x0011, 0xFE)] 0x8000 [0x76, 0x10])
      { State.reset with x := 0x01, pc := 0x8002 } [(0x0011, 0x7F)] = true := by decide
-- CP2: less: C=0, N from 0xF0
theorem test_cmp_cp2 :
    gives (given { State.reset with a := 0x10 } [] 0x8000 [0xC9, 0x20])
      { State.reset with a := 0x10, p := 0x80, pc := 0x8002 } [] = true := by decide
-- CP6: 0x80 - 1 = 0x7F: C=1 N=0; V is never written by a compare
theorem test_cmp_cp6 :
    gives (given { State.reset with a := 0x80, p := 0x40 } [] 0x8000 [0xC9, 0x01])
      { State.reset with a := 0x80, p := 0x41, pc := 0x8002 } [] = true := by decide
-- CP9: CPX equal at zero
theorem test_cpx_cp9 :
    gives (given { State.reset with x := 0x00 } [] 0x8000 [0xE0, 0x00])
      { State.reset with p := 0x03, pc := 0x8002 } [] = true := by decide
-- CP10: CPX zp: 0x7F - 0x80 = 0xFF: C=0 N=1
theorem test_cpx_cp10 :
    gives (given { State.reset with x := 0x7F } [(0x0010, 0x80)] 0x8000 [0xE4, 0x10])
      { State.reset with x := 0x7F, p := 0x80, pc := 0x8002 } [] = true := by decide
-- CP11: CPY equal
theorem test_cpy_cp11 :
    gives (given { State.reset with y := 0xFF } [] 0x8000 [0xC0, 0xFF])
      { State.reset with y := 0xFF, p := 0x03, pc := 0x8002 } [] = true := by decide
-- CP12: CPY abs greater
theorem test_cpy_cp12 :
    gives (given { State.reset with y := 0x01 } [(0x2000, 0x00)] 0x8000 [0xCC, 0x00, 0x20])
      { State.reset with y := 0x01, p := 0x01, pc := 0x8003 } [] = true := by decide
-- ID1: INC 0xFF -> 0x00, Z=1, C untouched
theorem test_inc_id1 :
    gives (given { State.reset with p := 0x81 } [(0x0010, 0xFF)] 0x8000 [0xE6, 0x10])
      { State.reset with p := 0x03, pc := 0x8002 } [(0x0010, 0x00)] = true := by decide
-- ID3: INC absx
theorem test_inc_id3 :
    gives (given { State.reset with x := 0x01 } [(0x0200, 0x00)] 0x8000 [0xFE, 0xFF, 0x01])
      { State.reset with x := 0x01, pc := 0x8003 } [(0x0200, 0x01)] = true := by decide
-- ID4: DEC 0x00 -> 0xFF
theorem test_dec_id4 :
    gives (given State.reset [(0x0010, 0x00)] 0x8000 [0xC6, 0x10])
      { State.reset with p := 0x80, pc := 0x8002 } [(0x0010, 0xFF)] = true := by decide
-- ID6: DEC absx 0x80 -> 0x7F
theorem test_dec_id6 :
    gives (given { State.reset with x := 0x05 } [(0x0305, 0x80)] 0x8000 [0xDE, 0x00, 0x03])
      { State.reset with x := 0x05, pc := 0x8003 } [(0x0305, 0x7F)] = true := by decide
-- ID7: INX wraps
theorem test_inx_id7 :
    gives (given { State.reset with x := 0xFF } [] 0x8000 [0xE8])
      { State.reset with p := 0x02, pc := 0x8001 } [] = true := by decide
-- ID8: INX to 0x80
theorem test_inx_id8 :
    gives (given { State.reset with x := 0x7F } [] 0x8000 [0xE8])
      { State.reset with x := 0x80, p := 0x80, pc := 0x8001 } [] = true := by decide
-- ID9: INY wraps
theorem test_iny_id9 :
    gives (given { State.reset with y := 0xFF } [] 0x8000 [0xC8])
      { State.reset with p := 0x02, pc := 0x8001 } [] = true := by decide
-- ID10: DEX wraps
theorem test_dex_id10 :
    gives (given { State.reset with x := 0x00 } [] 0x8000 [0xCA])
      { State.reset with x := 0xFF, p := 0x80, pc := 0x8001 } [] = true := by decide
-- ID11: DEX to zero
theorem test_dex_id11 :
    gives (given { State.reset with x := 0x01, p := 0x80 } [] 0x8000 [0xCA])
      { State.reset with p := 0x02, pc := 0x8001 } [] = true := by decide
-- ID12: DEY wraps
theorem test_dey_id12 :
    gives (given { State.reset with y := 0x00 } [] 0x8000 [0x88])
      { State.reset with y := 0xFF, p := 0x80, pc := 0x8001 } [] = true := by decide
-- ID13: DEY 0x81 -> 0x80
theorem test_dey_id13 :
    gives (given { State.reset with y := 0x81 } [] 0x8000 [0x88])
      { State.reset with y := 0x80, p := 0x80, pc := 0x8001 } [] = true := by decide
-- BR2: BPL taken -100 (source §8)
theorem test_bpl_br2 :
    gives (given State.reset [] 0x8000 [0x10, 0x9C])
      { State.reset with pc := 0x7F9E } [] = true := by decide
-- BR20: offset byte at 0x0000; 0x0001 + 5
theorem test_bpl_br20 :
    gives (given State.reset [(0x0000, 0x05)] 0xFFFF [0x10, 0x05])
      { State.reset with pc := 0x0006 } [] = true := by decide
-- BR4: BMI taken
theorem test_bmi_br4 :
    gives (given { State.reset with p := 0x80 } [] 0x8000 [0x30, 0x10])
      { State.reset with p := 0x80, pc := 0x8012 } [] = true := by decide
-- BR21: only N is tested: P = 0x7F, BMI not taken
theorem test_bmi_br21 :
    gives (given { State.reset with p := 0x7F } [] 0x8000 [0x30, 0x05])
      { State.reset with p := 0x7F, pc := 0x8002 } [] = true := by decide
-- BR6: BCC taken, largest forward
theorem test_bcc_br6 :
    gives (given { State.reset with p := 0x00 } [] 0x8000 [0x90, 0x7F])
      { State.reset with pc := 0x8081 } [] = true := by decide
-- BR7: BCC not taken
theorem test_bcc_br7 :
    gives (given { State.reset with p := 0x01 } [] 0x8000 [0x90, 0x7F])
      { State.reset with p := 0x01, pc := 0x8002 } [] = true := by decide
-- BR8: BCS taken, largest backward: 0x8002 - 128
theorem test_bcs_br8 :
    gives (given { State.reset with p := 0x01 } [] 0x8000 [0xB0, 0x80])
      { State.reset with p := 0x01, pc := 0x7F82 } [] = true := by decide
-- BR9: BCS not taken
theorem test_bcs_br9 :
    gives (given { State.reset with p := 0x00 } [] 0x8000 [0xB0, 0x80])
      { State.reset with pc := 0x8002 } [] = true := by decide
-- BR10: BEQ to itself (offset -2)
theorem test_beq_br10 :
    gives (given { State.reset with p := 0x02 } [] 0x8000 [0xF0, 0xFE])
      { State.reset with p := 0x02, pc := 0x8000 } [] = true := by decide
-- BR11: BEQ not taken
theorem test_beq_br11 :
    gives (given { State.reset with p := 0x00 } [] 0x8000 [0xF0, 0xFE])
      { State.reset with pc := 0x8002 } [] = true := by decide
-- BR12: BNE taken with offset 0 = next instruction
theorem test_bne_br12 :
    gives (given { State.reset with p := 0x00 } [] 0x8000 [0xD0, 0x00])
      { State.reset with pc := 0x8002 } [] = true := by decide
-- BR13: BNE not taken
theorem test_bne_br13 :
    gives (given { State.reset with p := 0x02 } [] 0x8000 [0xD0, 0x05])
      { State.reset with p := 0x02, pc := 0x8002 } [] = true := by decide
-- BR14: BVC taken
theorem test_bvc_br14 :
    gives (given { State.reset with p := 0x00 } [] 0x8000 [0x50, 0x05])
      { State.reset with pc := 0x8007 } [] = true := by decide
-- BR15: BVC not taken
theorem test_bvc_br15 :
    gives (given { State.reset with p := 0x40 } [] 0x8000 [0x50, 0x05])
      { State.reset with p := 0x40, pc := 0x8002 } [] = true := by decide
-- BR16: BVS taken
theorem test_bvs_br16 :
    gives (given { State.reset with p := 0x40 } [] 0x8000 [0x70, 0x05])
      { State.reset with p := 0x40, pc := 0x8007 } [] = true := by decide
-- BR17: BVS not taken
theorem test_bvs_br17 :
    gives (given { State.reset with p := 0x00 } [] 0x8000 [0x70, 0x05])
      { State.reset with pc := 0x8002 } [] = true := by decide
-- JP4: JMP ind, page-wrap defect (source §8)
theorem test_jmp_jp4 :
    gives (given State.reset [(0x81FF, 0x00), (0x8100, 0x90), (0x8200, 0x55)] 0x8000 [0x6C, 0xFF, 0x81])
      { State.reset with pc := 0x9000 } [] = true := by decide
-- JP5: JMP ($FFFF): low from 0xFFFF, high from 0xFF00
theorem test_jmp_jp5 :
    gives (given State.reset [(0xFF00, 0x56)] 0x8000 [0x6C, 0xFF, 0xFF])
      { State.reset with pc := 0x5600 } [] = true := by decide
-- JP9: JSR with S = 0x00: high at 0x0100, low at 0x01FF
theorem test_jsr_jp9 :
    gives (given { State.reset with sp := 0x00 } [] 0x9000 [0x20, 0x00, 0x40])
      { State.reset with sp := 0xFE, pc := 0x4000 } [(0x0100, 0x90), (0x01FF, 0x02)] = true := by decide
-- JP12: JSR at 0xFFFE: operand at 0xFFFF, 0x0000; pushes 0x0000
theorem test_jsr_jp12 :
    gives (given State.reset [] 0xFFFE [0x20, 0x00, 0x80])
      { State.reset with sp := 0xFD, pc := 0x8000 } [(0x01FF, 0x00), (0x01FE, 0x00)] = true := by decide
-- JP14: RTS popped 0xFFFF + 1 = 0x0000
theorem test_rts_jp14 :
    gives (given { State.reset with sp := 0xFD } [(0x01FE, 0xFF), (0x01FF, 0xFF)] 0x8000 [0x60])
      { State.reset with pc := 0x0000 } [] = true := by decide
-- JP15: RTS with S = 0xFF wraps to 0x0100, 0x0101
theorem test_rts_jp15 :
    gives (given { State.reset with sp := 0xFF } [(0x0100, 0x33), (0x0101, 0x44)] 0x8000 [0x60])
      { State.reset with sp := 0x01, pc := 0x4434 } [] = true := by decide
-- JP19: BRK with S = 0x01 wraps; P already 0xFF
theorem test_brk_jp19 :
    gives (given { State.reset with sp := 0x01, p := 0xFF } [(0xFFFE, 0xCD), (0xFFFF, 0xAB)] 0x1234 [0x00])
      { State.reset with sp := 0xFE, p := 0xFF, pc := 0xABCD } [(0x0101, 0x12), (0x0100, 0x35), (0x01FF, 0xFF)] = true := by decide
-- JP20: BRK at 0xFFFF pushes 0x0000; vector high byte is the BRK opcode itself
theorem test_brk_jp20 :
    gives (given State.reset [(0xFFFE, 0x00)] 0xFFFF [0x00])
      { State.reset with sp := 0xFC, p := 0x20, pc := 0x0000 } [(0x01FF, 0x00), (0x01FE, 0x00), (0x01FD, 0x00)] = true := by decide
-- JP23: RTI loads all 8 bits incl. bit 4 and B
theorem test_rti_jp23 :
    gives (given { State.reset with sp := 0xFC } [(0x01FD, 0xDF), (0x01FE, 0x05), (0x01FF, 0x80)] 0x9000 [0x40])
      { State.reset with p := 0xDF, pc := 0x8005 } [] = true := by decide
-- JP24: RTI with S wrap
theorem test_rti_jp24 :
    gives (given { State.reset with sp := 0xFE } [(0x01FF, 0x01), (0x0100, 0x34), (0x0101, 0x12)] 0x9000 [0x40])
      { State.reset with sp := 0x01, p := 0x01, pc := 0x1234 } [] = true := by decide
-- ST2: PHA with S = 0x00 wraps
theorem test_pha_st2 :
    gives (given { State.reset with a := 0x42, sp := 0x00 } [] 0x8000 [0x48])
      { State.reset with a := 0x42, pc := 0x8001 } [(0x0100, 0x42)] = true := by decide
-- ST3: PHP pushes P unmodified
theorem test_php_st3 :
    gives (given { State.reset with p := 0x81, sp := 0xFE } [] 0x8000 [0x08])
      { State.reset with sp := 0xFD, p := 0x81, pc := 0x8001 } [(0x01FE, 0x81)] = true := by decide
-- ST4: PHP of 0x00 pushes 0x00 (no bit forced)
theorem test_php_st4 :
    gives (given { State.reset with p := 0x00 } [] 0x8000 [0x08])
      { State.reset with sp := 0xFE, pc := 0x8001 } [(0x01FF, 0x00)] = true := by decide
-- ST5: PLA zero
theorem test_pla_st5 :
    gives (given { State.reset with sp := 0xFE, p := 0x80 } [(0x01FF, 0x00)] 0x8000 [0x68])
      { State.reset with p := 0x02, pc := 0x8001 } [] = true := by decide
-- ST6: PLA with S = 0xFF wraps
theorem test_pla_st6 :
    gives (given { State.reset with sp := 0xFF } [(0x0100, 0x80)] 0x8000 [0x68])
      { State.reset with a := 0x80, sp := 0x00, p := 0x80, pc := 0x8001 } [] = true := by decide
-- ST7: PLP all bits
theorem test_plp_st7 :
    gives (given { State.reset with sp := 0xFD } [(0x01FE, 0xFF)] 0x8000 [0x28])
      { State.reset with sp := 0xFE, p := 0xFF, pc := 0x8001 } [] = true := by decide
-- ST8: PLP of 0x10: only bit 4 set
theorem test_plp_st8 :
    gives (given { State.reset with sp := 0xFE, p := 0xEF } [(0x01FF, 0x10)] 0x8000 [0x28])
      { State.reset with p := 0x10, pc := 0x8001 } [] = true := by decide
-- ST11: TAX
theorem test_tax_st11 :
    gives (given { State.reset with a := 0xC0 } [] 0x8000 [0xAA])
      { State.reset with a := 0xC0, x := 0xC0, p := 0x80, pc := 0x8001 } [] = true := by decide
-- ST12: TAX zero
theorem test_tax_st12 :
    gives (given { State.reset with a := 0x00, x := 0x55, p := 0x80 } [] 0x8000 [0xAA])
      { State.reset with p := 0x02, pc := 0x8001 } [] = true := by decide
-- ST13: TXA zero
theorem test_txa_st13 :
    gives (given { State.reset with x := 0x00, a := 0x11, p := 0x80 } [] 0x8000 [0x8A])
      { State.reset with p := 0x02, pc := 0x8001 } [] = true := by decide
-- ST14: TAY
theorem test_tay_st14 :
    gives (given { State.reset with a := 0x7F } [] 0x8000 [0xA8])
      { State.reset with a := 0x7F, y := 0x7F, pc := 0x8001 } [] = true := by decide
-- ST15: TYA
theorem test_tya_st15 :
    gives (given { State.reset with y := 0x80 } [] 0x8000 [0x98])
      { State.reset with a := 0x80, y := 0x80, p := 0x80, pc := 0x8001 } [] = true := by decide
-- ST16: TSX after construction
theorem test_tsx_st16 :
    gives (given State.reset [] 0x8000 [0xBA])
      { State.reset with x := 0xFF, p := 0x80, pc := 0x8001 } [] = true := by decide
-- ST17: TSX zero
theorem test_tsx_st17 :
    gives (given { State.reset with sp := 0x00, p := 0x80 } [] 0x8000 [0xBA])
      { State.reset with sp := 0x00, p := 0x02, pc := 0x8001 } [] = true := by decide
-- ST18: TXS: no flags although X = 0
theorem test_txs_st18 :
    gives (given { State.reset with x := 0x00, p := 0x00 } [] 0x8000 [0x9A])
      { State.reset with sp := 0x00, pc := 0x8001 } [] = true := by decide
-- ST19: TXS: no flags although X negative
theorem test_txs_st19 :
    gives (given { State.reset with x := 0x80, p := 0x02 } [] 0x8000 [0x9A])
      { State.reset with x := 0x80, sp := 0x80, p := 0x02, pc := 0x8001 } [] = true := by decide
-- FL1: SEC
theorem test_sec_fl1 :
    gives (given { State.reset with p := 0x80 } [] 0x8000 [0x38])
      { State.reset with p := 0x81, pc := 0x8001 } [] = true := by decide
-- FL2: SEC idempotent
theorem test_sec_fl2 :
    gives (given { State.reset with p := 0x01 } [] 0x8000 [0x38])
      { State.reset with p := 0x01, pc := 0x8001 } [] = true := by decide
-- FL3: CLC
theorem test_clc_fl3 :
    gives (given { State.reset with p := 0x83 } [] 0x8000 [0x18])
      { State.reset with p := 0x82, pc := 0x8001 } [] = true := by decide
-- FL4: SEI
theorem test_sei_fl4 :
    gives (given { State.reset with p := 0x00 } [] 0x8000 [0x78])
      { State.reset with p := 0x04, pc := 0x8001 } [] = true := by decide
-- FL5: CLI
theorem test_cli_fl5 :
    gives (given { State.reset with p := 0x05 } [] 0x8000 [0x58])
      { State.reset with p := 0x01, pc := 0x8001 } [] = true := by decide
-- FL6: SED
theorem test_sed_fl6 :
    gives (given { State.reset with p := 0x00 } [] 0x8000 [0xF8])
      { State.reset with p := 0x08, pc := 0x8001 } [] = true := by decide
-- FL7: CLD
theorem test_cld_fl7 :
    gives (given { State.reset with p := 0x0A } [] 0x8000 [0xD8])
      { State.reset with p := 0x02, pc := 0x8001 } [] = true := by decide
-- FL8: CLV
theorem test_clv_fl8 :
    gives (given { State.reset with p := 0xC0 } [] 0x8000 [0xB8])
      { State.reset with p := 0x80, pc := 0x8001 } [] = true := by decide
-- FL9: CLV with V already 0
theorem test_clv_fl9 :
    gives (given { State.reset with p := 0xBF } [] 0x8000 [0xB8])
      { State.reset with p := 0xBF, pc := 0x8001 } [] = true := by decide
-- FL10: NOP
theorem test_nop_fl10 :
    gives (given { State.reset with a := 0x12, x := 0x34, y := 0x56, p := 0xFF } [] 0x8000 [0xEA])
      { State.reset with a := 0x12, x := 0x34, y := 0x56, p := 0xFF, pc := 0x8001 } [] = true := by decide
-- FL11: NOP at 0xFFFF: PC wraps to 0x0000
theorem test_nop_fl11 :
    gives (given State.reset [] 0xFFFF [0xEA])
      { State.reset with pc := 0x0000 } [] = true := by decide
-- FL12: undefined 0x02: one-byte no-op
theorem test_undefined_fl12 :
    gives (given { State.reset with a := 0x12, p := 0xC3 } [] 0x8000 [0x02])
      { State.reset with a := 0x12, p := 0xC3, pc := 0x8001 } [] = true := by decide
-- FL16: undefined 0x1A: A unchanged
theorem test_undefined_fl16 :
    gives (given { State.reset with a := 0x01 } [] 0x8000 [0x1A])
      { State.reset with a := 0x01, pc := 0x8001 } [] = true := by decide
-- LG11: BIT abs clears N, V, Z; C kept BIT_POLICY = standard
theorem test_bit_lg11 :
    (let s := given { State.reset with a := 0xFF, p := 0xC3 } [(0x3000, 0x3F)] 0x8000 [0x2C, 0x00, 0x30]
     leads (.next (bitState .standard (.abs 0x3000) s.pastOpcode)) s { State.reset with a := 0xFF, p := 0x01, pc := 0x8003 } []) = true := by decide
-- LG12: 0x24 as undefined no-op: PC + 1 only BIT_POLICY = undefined_nop
theorem test_bit_lg12 :
    (let s := given { State.reset with a := 0x01 } [(0x0010, 0xC0)] 0x8000 [0x24, 0x10]
     leads (.next (bitState .undefinedNop (.zp 0x10) s.pastOpcode)) s { State.reset with a := 0x01, pc := 0x8001 } []) = true := by decide
-- AS4: ADC 0x80 + 0x80 ADDSUB_BINARY
theorem test_adc_as4 :
    (let s := given { State.reset with a := 0x80 } [] 0x8000 [0x69, 0x80]
     leads (.next (addSubWith addSubBinary .adc (.imm 0x80) s.pastOpcode)) s { State.reset with p := 0x43, pc := 0x8002 } []) = true := by decide
-- AS10: SBC absx 0x50 - 0xB0 ADDSUB_BINARY
theorem test_sbc_as10 :
    (let s := given { State.reset with a := 0x50, x := 0x01, p := 0x01 } [(0x2001, 0xB0)] 0x8000 [0xFD, 0x00, 0x20]
     leads (.next (addSubWith addSubBinary .sbc (.absx 0x2000) s.pastOpcode)) s { State.reset with a := 0xA0, x := 0x01, p := 0xC0, pc := 0x8003 } []) = true := by decide
-- AS15: ADC zp with D = 1, C = 1: D ignored ADDSUB_STUB
theorem test_adc_as15 :
    (let s := given { State.reset with a := 0x10, p := 0x09 } [(0x0010, 0x15)] 0x8000 [0x65, 0x10]
     leads (.next (addSubWith addSubStub .adc (.zp 0x10) s.pastOpcode)) s { State.reset with a := 0x10, p := 0x09, pc := 0x8002 } []) = true := by decide

/-! ## The strict variant (48_flag_nop R198, 41_logical R123) -/

theorem test_strict_undefined : undefinedOpcode true 0x02 State.reset = .fault (.decodeFault 0x02) := rfl
theorem test_strict_bit : bitTest true .undefinedNop (.abs 0x3000) State.reset = .fault (.decodeFault 0x2C) := rfl

/-! ## Effective addresses: the examples of 30_encoding R91 to R100 -/

/-- The reset state with X, Y and some bytes of memory. -/
def indexed (x y : Byte) (mem : List (Word × Byte)) : State := given { State.reset with x := x, y := y } mem 0x8001 []

-- R91, R93, R94
theorem test_ea_zero_page :
    ea (.zp 0x10) (indexed 0 0 []) = some 0x0010 ∧ ea (.zpx 0xF0) (indexed 0x20 0 []) = some 0x0010 ∧
    ea (.zpy 0xFF) (indexed 0 0x01 []) = some 0x0000 := by decide
-- R95, R96, R97
theorem test_ea_absolute :
    ea (.abs 0x1234) (indexed 0 0 []) = some 0x1234 ∧ ea (.absx 0xFFF0) (indexed 0x20 0 []) = some 0x0010 ∧
    ea (.absy 0x12FF) (indexed 0 0x01 []) = some 0x1300 := by decide
-- R98, R99
theorem test_ea_indirect :
    ea (.indy 0x20) (indexed 0 0x20 [(0x0020, 0xF0), (0x0021, 0x12)]) = some 0x1310 ∧
    ea (.indx 0xFE) (indexed 0x01 0 [(0x00FF, 0x34), (0x0000, 0x12)]) = some 0x1234 := by decide
-- AM15, AM16: the two values of INDY_PTR_WRAP at the pointer 0xFF
theorem test_indy_pointer_ff :
    indyBase true 0xFF (indexed 0 0 [(0x0000, 0x04), (0x0100, 0x05)]) = 0x0400 ∧
    indyBase false 0xFF (indexed 0 0 [(0x0000, 0x04), (0x0100, 0x05)]) = 0x0500 := by decide

/-! ## The host's actions (70_reset_and_hazards R231, 20_memory R55) -/

theorem test_load_program :
    leads (loadProgram [0xA9, 0x00, 0xC0] State.reset) State.reset State.reset [(0x8000, 0xA9), (0x8002, 0xC0)] = true := by
  decide
theorem test_write_word_wraps :
    leads (hostAct (.writeWord 0xFFFF 0x1234) State.reset) State.reset State.reset [(0xFFFF, 0x34), (0x0000, 0x12)] = true := by
  decide

/-! ## The host's questions: a table word is decoded, and step runs it first after reset -/

theorem test_table_words :
    decodeTableWord 16 0x8EA9 = some (.lda (.imm 0x8E)) ∧ decodeTableWord 8 0x20 = some (.jsr 0x0000) ∧
    decodeTableWord 8 0x24 = some (.bit (.zp 0x00)) ∧ decodeTableWord 8 0x02 = some (.undefined 0x02) := by decide
theorem test_fetch_word :
    fetch (State.reset.withFetchWord 24 0x92F12C) = .bit (.abs 0x92F1) ∧
    fetch (State.reset.withFetchWord 8 0x00) = .brk ∧
    gives (State.reset.withFetchWord 16 0x8EA9) { State.reset with a := 0x8E, p := 0x80, pc := 0x8002 } [] = true := by
  decide

/-! ## Witnesses: each statement with hypotheses has a state and operands that meet them -/

theorem witness_PointerReadsStayInTheirPage :
    (0x81FF : Word).toNat % 256 = 255 ∧ ¬ (0x8100 : Word).toNat % 256 = 255 := by decide
theorem witness_PushStoresThenDecrements : ({ State.reset with sp := 0x00 } : State).sp = 0 := by decide
theorem witness_PopIncrementsThenReads : State.reset.sp = 0xFF := by decide
theorem witness_CompareOutcome :
    (0x10 : Byte) = operand (.imm 0x10) State.reset ∧ ¬ (0x10 : Byte) = operand (.imm 0x11) State.reset := by decide
theorem witness_IndirectYUnderBothParameters : (0xFE : Byte) ≠ 0xFF := by decide
-- a mode in memory, at the top of the address space, and Immediate with its byte at pc_h
theorem witness_OperandAndResult :
    ea (.absx 0xFFFF) State.reset = some 0xFFFF ∧
    (given State.reset [] 0x8001 [0x8E]).read (given State.reset [] 0x8001 [0x8E]).pc = 0x8E ∧
    ea (.imm 0x8E) (given State.reset [] 0x8001 [0x8E]) = some 0x8001 := by decide
theorem witness_StoresWriteOneByte :
    (Instr.sta (.indy 0xFF)).wellFormed = true ∧ (Instr.stx (.zpy 0xFF)).wellFormed = true ∧
    (Instr.sty (.abs 0xFFFF)).wellFormed = true ∧ ea (.abs 0xFFFF) State.reset = some 0xFFFF := by decide
theorem witness_ShiftsOnMemory : ea (.zpx 0xFF) (indexed 0x01 0 []) = some 0x0000 := by decide
theorem witness_IncDecMemory :
    (Instr.inc (.zp 0xFF)).wellFormed = true ∧ (Instr.dec (.absx 0xFFFF)).wellFormed = true ∧
    ea (.zp 0xFF) State.reset = some 0x00FF := by decide
theorem witness_StepRunsTheDecodedInstruction :
    decode [State.reset.read State.reset.pc, State.reset.read (State.reset.pc + 1), State.reset.read (State.reset.pc + 2)] =
      .ok (.brk, [0x00, 0x00]) := rfl

/-- A state whose memory lists entries, with a store as its next instruction. -/
def storing : State := given { State.reset with a := 0x5A } [(0x0010, 0x55)] 0x8000 [0x85, 0x11]

theorem storing_inv : storing.Inv := by
  unfold State.Inv
  decide

theorem witness_StepKeepsInvariant : ∃ t, storing.Inv ∧ step storing = .next t := ⟨_, storing_inv, rfl⟩
theorem witness_HostActionsKeepInvariant :
    (∃ t, storing.Inv ∧ hostAct (.load [0xEA]) storing = .next t) ∧ (∃ t, hostAct .step storing = .next t) ∧
    (∃ t, hostAct (.writeByte 0x0010 0x00) storing = .next t) ∧ (∃ t, hostAct (.writeWord 0xFFFF 0x1234) storing = .next t) ∧
    (∃ t, hostAct (.pushByte 0x01) storing = .next t) ∧ (∃ t, hostAct .popByte storing = .next t) ∧
    (∃ t, hostAct (.pushWord 0x0102) storing = .next t) ∧ (∃ t, hostAct .popWord storing = .next t) :=
  ⟨⟨_, storing_inv, rfl⟩, ⟨_, rfl⟩, ⟨_, rfl⟩, ⟨_, rfl⟩, ⟨_, rfl⟩, ⟨_, rfl⟩, ⟨_, rfl⟩, ⟨_, rfl⟩⟩
theorem witness_CanonicalMemoriesAreEqualData :
    storing.Inv ∧ (storing.setA 0x00).Inv ∧ MemoryKept storing (storing.setA 0x00) :=
  ⟨storing_inv, storing_inv, fun _ => rfl⟩
theorem witness_DecodeOfEncode :
    (Instr.undefined 0xFF).wellFormed = true ∧ (Instr.jmp (.ind 0xFFFF)).wellFormed = true ∧
    (Instr.sbc (.indy 0xFF)).wellFormed = true := by decide
-- one instruction for each clause, and the shift forms on both sides of the accumulator rule
theorem witness_RegistersWrittenOnlyByTheirInstructions :
    (∃ t, exec (.asl (.zp 0x10)) storing = .next t) ∧ (Instr.asl (.zp 0x10)).wellFormed = true ∧
    mayWriteA (.asl (.zp 0x10)) = false ∧ mayWriteA (.asl .acc) = true ∧ mayWriteX (.asl (.zp 0x10)) = false ∧
    mayWriteY (.asl (.zp 0x10)) = false ∧ mayWriteS (.asl (.zp 0x10)) = false :=
  ⟨⟨_, rfl⟩, rfl, rfl, rfl, rfl, rfl, rfl⟩
theorem witness_StatusBitsWrittenOnlyByTheirInstructions :
    (∃ t, exec .brk storing = .next t) ∧ 4 ∉ flagsWritten .brk ∧ 7 ∉ flagsWritten .brk ∧ 0 ∉ flagsWritten .brk :=
  ⟨⟨_, rfl⟩, by decide, by decide, by decide⟩
theorem witness_MemoryWrittenOnlyWhereStored :
    (∃ t, exec (.sta (.zp 0x11)) storing = .next t) ∧ (0x0010 : Word) ∉ storedTo (.sta (.zp 0x11)) storing ∧
    (0x0011 : Word) ∈ storedTo (.sta (.zp 0x11)) storing :=
  ⟨⟨_, rfl⟩, by decide, by decide⟩
theorem witness_OtherInstructionsEndPastTheirOperands :
    (∃ t, exec (.lda (.abs 0xFFFF)) storing = .next t) ∧ setsPc (.lda (.abs 0xFFFF)) = false ∧
    ∀ m, Instr.lda (.abs 0xFFFF) ≠ .bit m :=
  ⟨⟨_, rfl⟩, rfl, fun _ h => Instr.noConfusion h⟩
theorem witness_StorageBitsOfStatusAreNeverTested :
    (0x3C : Byte) &&& 0xC3 = 0 ∧ (∃ t, exec .clc storing = .next t) ∧ (∀ m, Instr.clc ≠ .adc m) ∧
    (∀ m, Instr.clc ≠ .sbc m) ∧ Instr.clc ≠ .php ∧ Instr.clc ≠ .plp ∧ Instr.clc ≠ .brk ∧ Instr.clc ≠ .rti ∧
    Instr.clc ≠ .sei ∧ Instr.clc ≠ .cli ∧ Instr.clc ≠ .sed ∧ Instr.clc ≠ .cld :=
  ⟨by decide, ⟨_, rfl⟩, fun _ h => Instr.noConfusion h, fun _ h => Instr.noConfusion h, by decide, by decide, by decide,
    by decide, by decide, by decide, by decide, by decide⟩
-- the longest image that is copied, the shortest that is refused, and both ends outside a copied image
theorem witness_LoadProgramCopiesTheImage :
    (List.replicate 32768 (0xEA : Byte)).length ≤ 32768 ∧ 32768 < (List.replicate 32769 (0xEA : Byte)).length ∧
    0 < [(0xEA : Byte)].length ∧ (0x7FFF : Word).toNat < 32768 ∧
    32768 + [(0xEA : Byte)].length ≤ (0x8001 : Word).toNat :=
  ⟨by rw [List.length_replicate], by rw [List.length_replicate]; decide, by decide, by decide, by decide⟩

end Sys2Proof.Tests
end

section
/-! PROOFS. 10_state R33: what `setZN` writes in P and what it keeps. -/

namespace Sys2Proof.Machine

theorem FlagsKeptBut.refl (written : List Flag) (p : Byte) : FlagsKeptBut written p p :=
  fun _ _ _ => rfl

/-- A write of a named flag stays within the frame: flag writes chain. -/
theorem FlagsKeptBut.setFlag {written : List Flag} {p q : Byte} (h : FlagsKeptBut written p q)
    {f : Flag} (hf : f ∈ written) (on : Bool) : FlagsKeptBut written p (setFlag q f on) := by
  intro k hk hout
  have hne : k ≠ flagPos f := fun e => hout (e ▸ List.mem_map_of_mem hf)
  rw [setFlag_getLsbD, if_neg hne]
  exact h k hk hout

/-- `setZN` is two flag writes, so it stays within every frame that names both flags. -/
theorem FlagsKeptBut.setZN {written : List Flag} {p q : Byte} (h : FlagsKeptBut written p q)
    (hz : .z ∈ written) (hn : .n ∈ written) (v : Byte) : FlagsKeptBut written p (setZN q v) :=
  (h.setFlag hz _).setFlag hn _

/-- Settles O7: the two flags are read off `getFlag_setZN`, the other six bits are the frame of its two
flag writes. -/
theorem setZNRecomputesBothFlags : Obligations.SetZNRecomputesBothFlags := by
  intro p v
  refine ⟨?zero, getFlag_setZN p v .n, (FlagsKeptBut.refl _ p).setZN ?_ ?_ v⟩
  case zero => rw [getFlag_setZN, decide_eq_true_iff]
  all_goals decide

end Sys2Proof.Machine
end

section
/-! PROOFS. 20_memory R54, R58, R59: the byte write, the push and the pop. -/

namespace Sys2Proof.Machine

section

variable (s : State)

/-- The slot's address as 20_memory R58 and R59 write it. -/
theorem or_zext16_eq_stackAddr (sp : Byte) : (0x0100 : Word) ||| zext16 sp = stackAddr sp := rfl

theorem State.push8_read_slot (v : Byte) : (s.push8 v).read (stackAddr s.sp) = v := by
  rw [State.push8_read, if_pos rfl]

/-- A pop moves S back to the slot the push has left. -/
theorem State.pop8_push8_sp (v : Byte) : (s.push8 v).pop8.2.sp = s.sp := by
  rw [State.pop8_sp, State.push8_sp, BitVec.sub_add_cancel]

/-- A pop reads the slot it moves S to, which is the slot the push has written. -/
theorem State.pop8_push8_fst (v : Byte) : (s.push8 v).pop8.1 = v :=
  calc (s.push8 v).pop8.1
    _ = (s.push8 v).read (stackAddr (s.push8 v).pop8.2.sp) := by rw [State.pop8_eq, State.setSp_sp]
    _ = (s.push8 v).read (stackAddr s.sp) := by rw [State.pop8_push8_sp]
    _ = v := s.push8_read_slot v

end

/-- Settles O1: `read_write` gives memory, and a write touches no register. -/
theorem memWriteChangesOneByte : Obligations.MemWriteChangesOneByte := by
  intro s addr v
  refine ⟨s.read_write addr v, ?_⟩
  simp only [State.write_a, State.write_x, State.write_y, State.write_sp, State.write_p, State.write_pc, and_self]

/-- Settles O4: `push8_read` gives memory, `stackAddr_toNat` the bounds of the page, and at S = 0 the slot is 0x0100. -/
theorem pushStoresThenDecrements : Obligations.PushStoresThenDecrements := by
  intro s v
  simp only [or_zext16_eq_stackAddr]
  refine ⟨s.push8_read v, s.push8_sp v, ?low, ?high, ?wrap, ?frame⟩
  case low => rw [stackAddr_toNat]; omega
  case high =>
    have := s.sp.isLt
    rw [stackAddr_toNat]
    omega
  case wrap =>
    intro h
    have slot : stackAddr s.sp = 0x0100 := by rw [h]; decide
    refine ⟨slot ▸ s.push8_read_slot v, ?_⟩
    rw [State.push8_sp, h]
    decide
  case frame =>
    simp only [State.push8_a, State.push8_x, State.push8_y, State.push8_p, State.push8_pc, and_self]

/-- Settles O5: `pop8_eq` gives the read at the incremented S, at S = 0xFF the slot is 0x0100, and the inverse is
`pop8_push8_fst` with `pop8_push8_sp`. -/
theorem popIncrementsThenReads : Obligations.PopIncrementsThenReads := by
  intro s v
  simp only [or_zext16_eq_stackAddr]
  have byte : s.pop8.1 = s.read (stackAddr (s.sp + 1)) := by rw [State.pop8_eq]
  refine ⟨byte, s.pop8_sp, s.pop8_read, ?wrap, s.pop8_push8_fst v, s.pop8_push8_sp v, ?frame⟩
  case wrap =>
    intro h
    have incremented : s.sp + 1 = 0 := by rw [h]; decide
    have slot : stackAddr 0 = 0x0100 := by decide
    rw [byte, State.pop8_sp, incremented, slot]
    exact ⟨rfl, rfl⟩
  case frame =>
    simp only [State.pop8_a, State.pop8_x, State.pop8_y, State.pop8_p, State.pop8_pc, and_self]

end Sys2Proof.Machine
end

section
/-! PROOFS. 30_encoding R91, R93, R94, R96, R97, R99: the effective addresses as numbers. -/

namespace Sys2Proof.Machine

/-- `wordOf_toNat` as an equation between Words. -/
theorem wordOf_eq (hi lo : Byte) : wordOf hi lo = BitVec.ofNat 16 (256 * hi.toNat + lo.toNat) := by
  rw [← wordOf_toNat, BitVec.ofNat_toNat, BitVec.setWidth_eq]

/-- A sum of two bytes is taken before it is extended, so it wraps in the zero page. -/
theorem zext16_add (p q : Byte) : zext16 (p + q) = BitVec.ofNat 16 ((p.toNat + q.toNat) % 256) := by
  rw [zext16_eq, BitVec.toNat_add]

/-- A byte added to a Word is extended first, so the sum wraps at the top of memory only. -/
theorem add_zext16 (w : Word) (q : Byte) : w + zext16 q = BitVec.ofNat 16 (w.toNat + q.toNat) := by
  rw [zext16_eq, BitVec.ofNat_add, BitVec.ofNat_toNat 16 w, BitVec.setWidth_eq]

/-- The zero-page pointer read (20_memory R56), with the addresses of its two bytes as numbers. -/
theorem State.readZP16_eq (s : State) (p : Byte) :
    s.readZP16 p =
      BitVec.ofNat 16
        (256 * (s.read (BitVec.ofNat 16 ((p.toNat + 1) % 256))).toNat +
          (s.read (BitVec.ofNat 16 p.toNat)).toNat) := by
  have high : zext16 (p + 1) = BitVec.ofNat 16 ((p.toNat + 1) % 256) := zext16_add p 1
  unfold State.readZP16
  rw [wordOf_eq, high, zext16_eq]

/-- The pointer of IndirectX is a byte, so it wraps in the zero page, and so does the address one past it
(30_encoding R99). -/
theorem ea_indx (s : State) (b : Byte) :
    ea (.indx b) s =
      some (BitVec.ofNat 16
        (256 * (s.read (BitVec.ofNat 16 ((b.toNat + s.x.toNat + 1) % 256))).toNat +
          (s.read (BitVec.ofNat 16 ((b.toNat + s.x.toNat) % 256))).toNat)) := by
  have pointer : (b + s.x).toNat = (b.toNat + s.x.toNat) % 256 := BitVec.toNat_add b s.x
  have above : ((b + s.x).toNat + 1) % 256 = (b.toNat + s.x.toNat + 1) % 256 := by
    rw [pointer, Nat.mod_add_mod]
  have fetched : ea (.indx b) s = some (s.readZP16 (b + s.x)) := rfl
  rw [fetched, State.readZP16_eq, above, pointer]

/-- Settles O11: the zero-page modes add bytes (`zext16_add`), the absolute modes Words (`add_zext16`), and IndirectX
is `ea_indx`; the byte-counts are the rows of `nbytes`. -/
theorem effectiveAddresses : Obligations.EffectiveAddresses := by
  intro s b w
  refine ⟨⟨?zp, rfl⟩, ⟨?zpx, rfl⟩, ⟨?zpy, rfl⟩, ⟨?absx, rfl⟩, ⟨?absy, rfl⟩, ⟨ea_indx s b, rfl⟩⟩
  case zp => exact congrArg some (zext16_eq b)
  case zpx => exact congrArg some (zext16_add b s.x)
  case zpy => exact congrArg some (zext16_add b s.y)
  case absx => exact congrArg some (add_zext16 w s.x)
  case absy => exact congrArg some (add_zext16 w s.y)

end Sys2Proof.Machine
end

section
/-! PROOFS. 43_compare R140: what a compare writes in P and what it keeps. -/

namespace Sys2Proof.Machine

/-- A compare is three flag writes, so it stays within every frame that names the three flags. -/
theorem FlagsKeptBut.compareFlags {written : List Flag} {p q : Byte} (h : FlagsKeptBut written p q)
    (hc : .c ∈ written) (hz : .z ∈ written) (hn : .n ∈ written) (r v : Byte) :
    FlagsKeptBut written p (compareFlags q r v) :=
  ((h.setFlag hc _).setFlag hz _).setFlag hn _

/-- The difference of two bytes is the difference of their numbers, mod 256. -/
theorem ofInt_toNat_sub_toNat (r v : Byte) : BitVec.ofInt 8 (r.toNat - v.toNat) = r - v := by
  have byte (b : Byte) : BitVec.ofInt 8 b.toNat = b := by
    rw [BitVec.ofInt_natCast, BitVec.ofNat_toNat, BitVec.setWidth_eq]
  rw [Int.sub_eq_add_neg, BitVec.ofInt_add, BitVec.ofInt_neg, byte, byte, BitVec.sub_eq_add_neg]

/-- Settles O8: the three flags are read off `getFlag_compareFlags`, with the difference as an integer by
`ofInt_toNat_sub_toNat`; equal bytes differ by 0, whose bit 7 is clear. A compare writes P and pc only
(`compareWith_eq`), so the registers and memory are the state's own. -/
theorem compareOutcome : Obligations.CompareOutcome := by
  intro r m s
  rw [compareWith_eq]
  refine ⟨?carry, ?zero, ?negative, ?equal,
    (FlagsKeptBut.refl _ s.p).compareFlags ?_ ?_ ?_ r (operand m s), fun _ => rfl, rfl, rfl, rfl, rfl⟩
  case carry => rw [getFlag_compareFlags, decide_eq_true_iff]
  case zero => rw [getFlag_compareFlags, decide_eq_true_iff]
  case negative => rw [getFlag_compareFlags, ofInt_toNat_sub_toNat]
  case equal =>
    intro h
    have difference : r - operand m s = 0#8 := by rw [h, BitVec.sub_self]
    rw [getFlag_compareFlags, difference]
    exact BitVec.getLsbD_zero
  all_goals decide

end Sys2Proof.Machine
end

section
/-! PROOFS. 45_branch R160: where a branch goes and what it keeps. -/

namespace Sys2Proof.Machine

/-- The Word one past pc, displaced by a signed byte, is the integer sum mod 65536. -/
theorem add_one_add_sext16 (pc : Word) (off : Byte) :
    pc + 1 + sext16 off = BitVec.ofInt 16 (pc.toNat + 1 + off.toInt) := by
  have word : BitVec.ofInt 16 pc.toNat = pc := by
    rw [BitVec.ofInt_natCast, BitVec.ofNat_toNat, BitVec.setWidth_eq]
  have one : BitVec.ofInt 16 1 = 1 := rfl
  rw [BitVec.ofInt_add, BitVec.ofInt_add, word, one, sext16_eq]

/-- Settles O9: both successors are read off `branch_eq`, the taken one as an integer by `add_one_add_sext16`. A branch
writes pc only, so the registers, P and memory are the state's own. -/
theorem branchTarget : Obligations.BranchTarget := by
  intro off s
  refine ⟨?notTaken, ?taken, ?frame⟩
  case notTaken => rw [branch_eq, if_neg Bool.false_ne_true]
  case taken => rw [branch_eq, if_pos rfl, add_one_add_sext16]
  case frame =>
    intro cond
    rw [branch_eq]
    exact ⟨rfl, rfl, rfl, rfl, rfl, fun _ => rfl⟩

end Sys2Proof.Machine
end

section
/-! PROOFS. 10_state R38, 20_memory R51, R64: an instruction reaches memory through byte writes at the addresses
`storedTo` gives, so it keeps the canonical form and every other byte. -/

namespace Sys2Proof.Machine

/-- `n` is the memory `m` after byte writes at addresses among `addrs`. -/
inductive Stored (addrs : List Word) (m : Memory) : Memory → Prop
  | refl : Stored addrs m m
  | put {n : Memory} {addr : Word} (v : Byte) : addr ∈ addrs → Stored addrs m n →
      Stored addrs m (memPut n addr.toNat v)

theorem Stored.wf {addrs : List Word} {m n : Memory} (h : Stored addrs m n) (hm : m.wf) : n.wf := by
  induction h with
  | refl => exact hm
  | put v _ _ ih => exact memPut_wf v (BitVec.isLt _) ih

theorem Stored.memGet {addrs : List Word} {m n : Memory} (h : Stored addrs m n) {addr : Word} (hout : addr ∉ addrs) :
    memGet n addr.toNat = memGet m addr.toNat := by
  induction h with
  | refl => rfl
  | put v hin _ ih =>
    have hne : addr ≠ _ := fun e => hout (e ▸ hin)
    rw [memGet_memPut, if_neg (BitVec.toNat_inj.not.2 hne), ih]

/-- `result` stores at the effective address, or not at all. -/
theorem result_stored (m : AddrMode) (v : Byte) (s : State) :
    Stored (ea m s).toList s.mem (result m v s).mem := by
  rcases result_cases s m v with ⟨addr, hea, e⟩ | ⟨hea, e⟩ <;> rw [e, hea]
  · exact .put v List.mem_cons_self .refl
  · exact .refl

/-- The slots of a pushed Word. -/
theorem push16_stored {addrs : List Word} (s : State) (w : Word) (hhi : stackAddr s.sp ∈ addrs)
    (hlo : stackAddr (s.sp - 1) ∈ addrs) : Stored addrs s.mem (s.push16 w).mem :=
  .put _ hlo (.put _ hhi .refl)

/-- The slots of the software interrupt: PC, then P. -/
theorem enterInterrupt_stored (s : State) (ret : Word) :
    Stored [stackAddr s.sp, stackAddr (s.sp - 1), stackAddr (s.sp - 2)] s.mem (s.enterInterrupt ret).mem := by
  have hp : stackAddr (s.push16 ret).sp ∈ [stackAddr s.sp, stackAddr (s.sp - 1), stackAddr (s.sp - 2)] := by
    simp [BitVec.sub_sub]
  exact .put s.p hp (push16_stored s ret (by simp) (by simp))

/-- Every instruction stores at the addresses of `storedTo` alone. -/
theorem exec_stored {i : Instr} {s t : State} (h : exec i s = .next t) : Stored (storedTo i s) s.mem t.mem := by
  cases i <;> cases h
  case sta m | stx m | sty m | asl m | lsr m | rol m | ror m | inc m | dec m => exact result_stored m _ s
  case pha | php => exact .put _ List.mem_cons_self .refl
  case jsr => exact push16_stored s _ (by simp [storedTo]) (by simp [storedTo])
  case brk => exact enterInterrupt_stored s s.pc
  case bit => cases Config.bitPolicy <;> exact .refl
  all_goals exact .refl

/-- Settles O43: a step is one instruction, and each of its byte writes keeps the form (`memPut_wf`). -/
theorem stepKeepsInvariant : Obligations.StepKeepsInvariant := by
  intro s t hs h
  exact (exec_stored h).wf hs

/-- Settles O52: the writes are at the addresses of `storedTo`. -/
theorem memoryWrittenOnlyWhereStored : Obligations.MemoryWrittenOnlyWhereStored := by
  intro i s t h addr hout
  exact (exec_stored h).memGet hout

/-- Settles O44: an image is a run of byte writes, a push stores bytes, a pop stores nothing. -/
theorem hostActionsKeepInvariant : Obligations.HostActionsKeepInvariant := by
  intro act s t hs h
  cases act
  case load bytes =>
    simp only [hostAct, loadProgram] at h
    split at h
    · cases h
      exact State.writeBytes_wf _ bytes hs
    · cases h
  case step => exact stepKeepsInvariant s t hs h
  all_goals cases h
  case writeByte addr v => exact State.write_wf addr v hs
  case writeWord addr v => exact State.write_wf _ _ (State.write_wf addr _ hs)
  case pushByte v => exact State.push8_wf v hs
  case pushWord w => exact State.push16_wf w hs
  case popByte | popWord => exact hs

end Sys2Proof.Machine
end

section
/-! PROOFS. 30_encoding R80 to R86, R88: the decoder and the encoder agree, in both directions. -/

namespace Sys2Proof

open Sys2Proof.Machine (loByte hiByte wordOf wordOf_parts hiByte_wordOf loByte_wordOf)

/-! ## From an instruction to its bytes and back -/

/-- The slot of the opcode byte `opc`, given these operand bytes, makes this instruction. -/
inductive Slot.Makes (opc : Byte) : Slot → List Byte → Instr → Prop
  | undef : Makes opc .undef [] (.undefined opc)
  | f1 (i : Instr) : Makes opc (.f1 i) [] i
  | f2 (f : Byte → Instr) (b : Byte) : Makes opc (.f2 f) [b] (f b)
  | f3 (f : Word → Instr) (w : Word) : Makes opc (.f3 f) [loByte w, hiByte w] (f w)

/-- Bytes that a slot makes an instruction of decode to it, whatever follows. -/
theorem Slot.Makes.decode_eq {opc : Byte} {operands : List Byte} {i : Instr}
    (h : (slotOf opc).Makes opc operands i) (rest : List Byte) :
    decode (opc :: operands ++ rest) = .ok (i, rest) := by
  generalize hs : slotOf opc = slot at h
  cases h <;> simp [decode, decodeBytes, hs, Slot.length, wordOf_parts]

/-- A byte that the map gives no instruction. -/
def Slot.isUndef : Slot → Bool
  | .undef => true
  | .f1 _ | .f2 _ | .f3 _ => false

theorem Slot.eq_undef : ∀ {slot : Slot}, slot.isUndef = true → slot = .undef
  | .undef, _ => rfl

/-- The list of undefined bytes agrees with the map. -/
theorem slotOf_undefinedBytes {opc : Byte} (h : undefinedBytes.contains opc = true) : slotOf opc = .undef := by
  have hall : ∀ opc ∈ undefinedBytes, (slotOf opc).isUndef = true := by decide
  exact Slot.eq_undef (hall opc (List.contains_iff_mem.1 h))

/-- The map by mnemonic agrees with the map by opcode byte. -/
theorem makes_of_opcodeOf {i : Instr} {opc : Byte} (h : opcodeOf i = some opc) :
    (slotOf opc).Makes opc (operandBytes i) i := by
  cases i
  case undefined b =>
    simp only [opcodeOf, Option.ite_none_right_eq_some, Option.some.injEq] at h
    obtain ⟨hb, rfl⟩ := h
    rw [slotOf_undefinedBytes hb]
    exact .undef
  case jmp t => cases t <;> cases h <;> constructor
  case lda m | ldx m | ldy m | sta m | stx m | sty m | and m | ora m | eor m | bit m | asl m | lsr m | rol m | ror m
      | cmp m | cpx m | cpy m | inc m | dec m | adc m | sbc m => cases m <;> cases h <;> constructor
  all_goals cases h; constructor

/-- The per-instruction family `Laws.Encodable`, for every instruction. -/
theorem wellFormed_eq_isSome_encode (i : Instr) : i.wellFormed = (encode i).isSome := by
  show Laws.Encodable.Statement i
  open Laws in
  cases i <;> simp only [Encodable.lda, Encodable.ldx, Encodable.ldy, Encodable.sta, Encodable.stx, Encodable.sty,
    Encodable.and, Encodable.ora, Encodable.eor, Encodable.bit, Encodable.asl, Encodable.lsr, Encodable.rol,
    Encodable.ror, Encodable.cmp, Encodable.cpx, Encodable.cpy, Encodable.inc, Encodable.dec, Encodable.inx,
    Encodable.iny, Encodable.dex, Encodable.dey, Encodable.bcc, Encodable.bcs, Encodable.beq, Encodable.bne,
    Encodable.bmi, Encodable.bpl, Encodable.bvc, Encodable.bvs, Encodable.jmp, Encodable.jsr, Encodable.rts,
    Encodable.brk, Encodable.rti, Encodable.pha, Encodable.php, Encodable.pla, Encodable.plp, Encodable.tax,
    Encodable.txa, Encodable.tay, Encodable.tya, Encodable.tsx, Encodable.txs, Encodable.sec, Encodable.clc,
    Encodable.sei, Encodable.cli, Encodable.sed, Encodable.cld, Encodable.clv, Encodable.nop, Encodable.undefined,
    Encodable.adc, Encodable.sbc]

/-- Settles O47: a well-formed instruction has an opcode byte, whose slot makes the instruction again of its operand
bytes. -/
theorem decodeOfEncode : Obligations.DecodeOfEncode := by
  intro i hwf
  rw [wellFormed_eq_isSome_encode, encode, Option.isSome_map, Option.isSome_iff_exists] at hwf
  obtain ⟨opc, hopc⟩ := hwf
  exact ⟨opc :: operandBytes i, by rw [encode, hopc, Option.map_some], (makes_of_opcodeOf hopc).decode_eq⟩

/-! ## From bytes to an instruction and back -/

/-- Whatever the slot of `opc` makes of an operand encodes to `opc` with the operand's bytes. -/
def Slot.Sound (opc : Byte) (slot : Slot) : Prop :=
  ∀ (b : Byte) (w : Word),
    match slot with
    | .undef => encode (.undefined opc) = some [opc]
    | .f1 i => encode i = some [opc]
    | .f2 f => encode (f b) = some [opc, b]
    | .f3 f => encode (f w) = some [opc, loByte w, hiByte w]

/-- The slots of a row are sound, the first one's opcode byte being `n`. -/
def SoundFrom : Nat → List Slot → Prop
  | _, [] => True
  | n, slot :: rest => slot.Sound (BitVec.ofNat 8 n) ∧ SoundFrom (n + 1) rest

theorem SoundFrom.sound {slots : List Slot} {n k : Nat} (h : SoundFrom n slots) (hk : k < slots.length) :
    (slots.getD k .undef).Sound (BitVec.ofNat 8 (n + k)) := by
  induction slots generalizing n k with
  | nil => cases hk
  | cons slot slots ih =>
    obtain ⟨hslot, hrest⟩ := h
    cases k with
    | zero => exact hslot
    | succ k =>
      have hn : n + (k + 1) = n + 1 + k := by omega
      rw [hn]
      exact ih hrest (Nat.lt_of_succ_lt_succ hk)

/-- Each of the map's 256 cells is sound: the two tables of 30_encoding R88 agree. -/
theorem soundFrom_opcodeMap {d : Nat} (hd : d < 16) : SoundFrom (16 * d) (opcodeMap.getD d []) := by
  interval_cases d <;> (repeat refine ⟨fun _ _ => rfl, ?_⟩) <;> trivial

theorem length_opcodeMap_row : ∀ d < 16, (opcodeMap.getD d []).length = 16 := by decide

theorem slotOf_sound (opc : Byte) : (slotOf opc).Sound opc := by
  have hhi : opc.toNat / 16 < 16 := by have := opc.isLt; omega
  have hlo : opc.toNat % 16 < (opcodeMap.getD (opc.toNat / 16) []).length := by
    rw [length_opcodeMap_row _ hhi]
    omega
  have h := (soundFrom_opcodeMap hhi).sound hlo
  rwa [Nat.div_add_mod, BitVec.ofNat_toNat, BitVec.setWidth_eq] at h

theorem encode_decodeBytes (b0 b1 b2 : Byte) :
    encode (decodeBytes b0 b1 b2) = some ([b0, b1, b2].take (slotOf b0).length) := by
  have h := slotOf_sound b0 b1 (wordOf b2 b1)
  unfold decodeBytes
  generalize slotOf b0 = slot at h ⊢
  cases slot with
  | undef | f1 i | f2 f => exact h
  | f3 f => rwa [loByte_wordOf, hiByte_wordOf] at h

theorem decodeBytes_wellFormed (b0 b1 b2 : Byte) : (decodeBytes b0 b1 b2).wellFormed = true := by
  rw [wellFormed_eq_isSome_encode, encode_decodeBytes, Option.isSome_some]

theorem Slot.length_bounds (slot : Slot) : 1 ≤ slot.length ∧ slot.length ≤ 3 := by
  cases slot <;> simp [Slot.length]

/-- Settles O48: the slot of the first byte is sound (`slotOf_sound`), and an instruction with an encoding is
well-formed. -/
theorem encodeOfDecode : Obligations.EncodeOfDecode := by
  intro b0 b1 b2
  exact ⟨decodeBytes_wellFormed b0 b1 b2, encode_decodeBytes b0 b1 b2, (slotOf b0).length_bounds⟩

/-- Settles O49: each word is a line of the map. -/
theorem sampleWordsDecode : Obligations.SampleWordsDecode := by
  unfold Obligations.SampleWordsDecode
  decide

end Sys2Proof
end

section
/-! PROOFS. 30_encoding R83, 70_reset_and_hazards R233, R240: the step runs what the bytes at PC decode to, and no
instruction stops. -/

namespace Sys2Proof.Machine

/-- Three bytes are enough for every instruction. -/
theorem decode_three (b0 b1 b2 : Byte) :
    decode [b0, b1, b2] = .ok (decodeBytes b0 b1 b2, [b1, b2].drop ((slotOf b0).length - 1)) :=
  if_pos (slotOf b0).length_bounds.2

/-- Settles O40: three bytes are enough, so what they decode to is what `fetch` decodes. -/
theorem stepRunsTheDecodedInstruction : Obligations.StepRunsTheDecodedInstruction := by
  intro s i rest h
  rw [decode_three] at h
  cases h
  exact ⟨decodeBytes_wellFormed _ _ _, step_eq s⟩

/-- No instruction stops: `STRICT_DECODE` is false (48_flag_nop R198). -/
theorem exec_completes (i : Instr) (s : State) : ∃ t, exec i s = .next t := by
  cases i <;> exact ⟨_, rfl⟩

theorem run_succ_of_step {s t : State} (n : Nat) (h : step s = .next t) :
    Host.Core.run Sys2Proof.core (n + 1) s = Host.Core.run Sys2Proof.core n t := by
  have h : Sys2Proof.core.step s = .next t := h
  simp only [Host.Core.run, h]

/-- Settles O46, by induction on the number of steps. -/
theorem noRunEverStops : Obligations.NoRunEverStops := by
  intro n
  induction n with
  | zero => exact fun s => ⟨s, rfl⟩
  | succ n ih =>
    intro s
    obtain ⟨t, ht⟩ := exec_completes (fetch s) s.pastOpcode
    obtain ⟨u, hu⟩ := ih t
    exact ⟨u, (run_succ_of_step n ht).trans hu⟩

/-- Settles O41: each field is the table's, and no address is listed. -/
theorem resetValues : Obligations.ResetValues := ⟨rfl, rfl, rfl, rfl, rfl, rfl, fun _ => rfl⟩

/-- Settles O42: the memory lists nothing. -/
theorem resetMeetsInvariant : Obligations.ResetMeetsInvariant := State.reset_mem_wf

/-- Settles O37: both handlers answer the state they start in. -/
theorem nopAndUndefinedChangeNothing : Obligations.NopAndUndefinedChangeNothing := fun _ _ => ⟨rfl, rfl⟩

/-- Settles O38: each clause fixes both parameters, so the meaning's two branches are read off. -/
theorem strictVariantFaults : Obligations.StrictVariantFaults :=
  fun _ m s => ⟨rfl, rfl, fun _ => rfl, fun _ => rfl, rfl, bitTest_next s m .undefinedNop⟩

end Sys2Proof.Machine
end

section
/-! PROOFS. 10_state R38: a canonical memory is determined by what it reads as. -/

namespace Sys2Proof.Machine

/-- The entries of a canonical memory are the bytes that do not read as an unlisted one. -/
theorem mem_iff_memGet {m : Memory} (h : m.wf) (c : Host.Cell) :
    c ∈ m ↔ memGet m c.1 = c.2 ∧ c.2 ≠ unlistedByte := by
  obtain ⟨hsorted, hcells⟩ := h
  induction m with
  | nil => exact ⟨fun hc => absurd hc List.not_mem_nil, fun ⟨hv, hne⟩ => absurd hv.symm hne⟩
  | cons d rest ih =>
    obtain ⟨habove, hrest⟩ := List.pairwise_cons.1 hsorted
    rw [List.mem_cons, memGet]
    split
    case isTrue hk =>
      have hnot : c ∉ rest := fun hc => absurd (habove c hc) (by omega)
      constructor
      · rintro (rfl | hc)
        · exact ⟨rfl, (hcells c List.mem_cons_self).2⟩
        · exact absurd hc hnot
      · rintro ⟨hv, -⟩
        exact .inl (Prod.ext hk.symm hv.symm)
    case isFalse hk =>
      have hne : c ≠ d := fun e => hk (e ▸ rfl)
      rw [or_iff_right hne]
      exact ih hrest fun e he => hcells e (List.mem_cons_of_mem _ he)

theorem subset_of_memGet {m n : Memory} (hm : m.wf) (hn : n.wf)
    (h : ∀ addr : Word, memGet n addr.toNat = memGet m addr.toNat) : m ⊆ n := by
  intro c hc
  have hk : (BitVec.ofNat 16 c.1).toNat = c.1 := Nat.mod_eq_of_lt (hm.2 c hc).1
  have hread := h (BitVec.ofNat 16 c.1)
  rw [hk] at hread
  rw [mem_iff_memGet hn, hread]
  exact (mem_iff_memGet hm c).1 hc

theorem nodup_of_wf {m : Memory} (h : m.wf) : m.Nodup :=
  h.1.imp fun hlt e => absurd (e ▸ hlt) (Nat.lt_irrefl _)

/-- Settles O45: the two lists have the same entries in the same, strictly rising order. -/
theorem canonicalMemoriesAreEqualData : Obligations.CanonicalMemoriesAreEqualData := by
  intro s t hs ht h
  have hperm : s.mem.Perm t.mem := by
    refine (List.perm_ext_iff_of_nodup (nodup_of_wf hs) (nodup_of_wf ht)).2 fun c => ⟨fun hc => ?_, fun hc => ?_⟩
    · exact subset_of_memGet hs ht h hc
    · exact subset_of_memGet ht hs (fun addr => (h addr).symm) hc
  exact hperm.eq_of_pairwise (fun _ _ _ _ hab hba => absurd hab (Nat.lt_asymm hba)) hs.1 ht.1

end Sys2Proof.Machine
end

section
/-! PROOFS. 20_memory R53, R55 to R57, R60 to R62: the Word accesses, the pointer reads, the pushed Word. -/

namespace Sys2Proof.Machine

theorem add_one_ne_self (addr : Word) : addr + 1 ≠ addr := by
  bv_omega

theorem State.write16_read_high (s : State) (addr w : Word) : (s.write16 addr w).read (addr + 1) = hiByte w := by
  rw [State.write16, State.read_write, if_pos rfl]

theorem State.write16_read_low (s : State) (addr w : Word) : (s.write16 addr w).read addr = loByte w := by
  rw [State.write16, State.read_write, if_neg (add_one_ne_self addr).symm, State.read_write, if_pos rfl]

theorem State.write16_kept (s : State) (addr w : Word) : MemoryKeptBut [addr, addr + 1] s (s.write16 addr w) := by
  intro b hb
  obtain ⟨hlow, hhigh⟩ : b ≠ addr ∧ b ≠ addr + 1 := by simpa using hb
  rw [State.write16, State.read_write, if_neg hhigh, State.read_write, if_neg hlow]

/-- Settles O2: the two addresses differ, so each byte reads back (`write16_read_low`, `write16_read_high`). -/
theorem wordAccessIsLittleEndian : Obligations.WordAccessIsLittleEndian := by
  intro s addr w
  refine ⟨wordOf_toNat _ _, ?low, ?high, s.write16_kept addr w, ?inverse, ?frame⟩
  case low => rw [State.write16_read_low, loByte_toNat]
  case high => rw [State.write16_read_high, hiByte_toNat]
  case inverse => rw [State.read16, State.write16_read_high, State.write16_read_low, wordOf_parts]
  case frame =>
    simp only [State.write16, State.write_a, State.write_x, State.write_y, State.write_sp, State.write_p,
      State.write_pc, and_self]

theorem wordOf_and_FF00 (hi lo : Byte) : wordOf hi lo &&& 0xFF00 = wordOf hi 0 :=
  (BitVec.and_append (x₂ := 0xFF#8) (y₂ := 0#8)).trans (congrArg₂ wordOf BitVec.and_allOnes BitVec.and_zero)

theorem wordOf_and_00FF (hi lo : Byte) : wordOf hi lo &&& 0x00FF = wordOf 0 lo :=
  (BitVec.and_append (x₂ := 0#8) (y₂ := 0xFF#8)).trans (congrArg₂ wordOf BitVec.and_zero BitVec.and_allOnes)

theorem wordOf_zero_or_wordOf_zero (hi lo : Byte) : wordOf hi 0 ||| wordOf 0 lo = wordOf hi lo :=
  BitVec.or_append.trans (congrArg₂ wordOf BitVec.or_zero BitVec.zero_or)

/-- The second byte of the page-wrap read (20_memory R57): the pointer's page starts again after its low byte 0xFF. -/
theorem pageWrapAddr (ptr : Word) :
    (ptr &&& 0xFF00) ||| ((ptr + 1) &&& 0x00FF) =
      if ptr.toNat % 256 = 255 then ptr &&& 0xFF00 else ptr + 1 := by
  have hhi : ptr &&& 0xFF00 = wordOf (hiByte ptr) 0 := by rw [← wordOf_and_FF00 _ (loByte ptr), wordOf_parts]
  have hlo : (ptr + 1) &&& 0x00FF = wordOf 0 (loByte (ptr + 1)) := by
    rw [← wordOf_and_00FF (hiByte (ptr + 1)), wordOf_parts]
  have hnext : (ptr + 1).toNat = (ptr.toNat + 1) % 65536 := BitVec.toNat_add ptr 1
  rw [hhi, hlo, wordOf_zero_or_wordOf_zero]
  split
  case isTrue h =>
    congr 1
    apply BitVec.eq_of_toNat_eq
    rw [loByte_toNat, hnext]
    show _ = 0
    omega
  case isFalse h =>
    have := ptr.isLt
    apply BitVec.eq_of_toNat_eq
    rw [wordOf_toNat, hiByte_toNat, loByte_toNat, hnext]
    omega

theorem State.readPageWrap16_eq (s : State) (ptr : Word) :
    s.readPageWrap16 ptr =
      if ptr.toNat % 256 = 255 then wordOf (s.read (ptr &&& 0xFF00)) (s.read ptr) else s.read16 ptr := by
  rw [State.readPageWrap16, pageWrapAddr, State.read16]
  split <;> rfl

theorem zext16_add_one (p : Byte) : zext16 (p + 1) = BitVec.ofNat 16 ((p.toNat + 1) % 256) :=
  zext16_add p 1

/-- Settles O3: the zero-page read adds bytes, and the page-wrap read is `readPageWrap16_eq`. -/
theorem pointerReadsStayInTheirPage : Obligations.PointerReadsStayInTheirPage := by
  intro s p ptr
  refine ⟨?_, s.readPageWrap16_eq ptr⟩
  rw [State.readZP16, wordOf_toNat, zext16_add_one, zext16_eq]

theorem sub_one_ne_self (b : Byte) : b - 1 ≠ b := by
  bv_omega

theorem sub_one_sub_one (b : Byte) : b - 1 - 1 = b - 2 := by
  rw [BitVec.sub_sub]
  rfl

theorem State.push16_sp_eq (s : State) (w : Word) : (s.push16 w).sp = s.sp - 2 := by
  rw [State.push16_sp, sub_one_sub_one]

theorem State.push16_read_low (s : State) (w : Word) : (s.push16 w).read (stackAddr (s.sp - 1)) = loByte w := by
  rw [State.push16_read, if_pos rfl]

theorem State.push16_read_high (s : State) (w : Word) : (s.push16 w).read (stackAddr s.sp) = hiByte w := by
  rw [State.push16_read, if_neg (stackAddr_inj.not.2 (sub_one_ne_self s.sp).symm), if_pos rfl]

theorem State.push16_kept (s : State) (w : Word) :
    MemoryKeptBut [stackAddr s.sp, stackAddr (s.sp - 1)] s (s.push16 w) := by
  intro b hb
  obtain ⟨hhigh, hlow⟩ : b ≠ stackAddr s.sp ∧ b ≠ stackAddr (s.sp - 1) := by simpa using hb
  rw [State.push16_read, if_neg hlow, if_neg hhigh]

theorem State.pop16_push16_sp (s : State) (w : Word) : (s.push16 w).pop16.2.sp = s.sp := by
  rw [State.pop16_sp, State.push16_sp, BitVec.sub_add_cancel, BitVec.sub_add_cancel]

theorem State.pop16_push16_fst (s : State) (w : Word) : (s.push16 w).pop16.1 = w := by
  rw [State.pop16_eq, State.push16_sp, BitVec.sub_add_cancel, BitVec.sub_add_cancel, State.push16_read_low,
    State.push16_read_high, wordOf_parts]

/-- Settles O6: the two slots differ (`stackAddr_inj`), and `pop16` reads them in the other order. -/
theorem pushedWordLayoutAndInverse : Obligations.PushedWordLayoutAndInverse := by
  intro s w
  refine ⟨s.push16_sp_eq w, s.push16_read_high w, s.push16_read_low w, s.push16_kept w, s.pop16_push16_fst w,
    s.pop16_push16_sp w, ?frame⟩
  case frame =>
    simp only [State.push16_a, State.push16_x, State.push16_y, State.push16_p, State.push16_pc, and_self]

end Sys2Proof.Machine
end

section
/-! PROOFS. 30_encoding R90 to R101: IndirectY, the operand and the result of a mode. -/

namespace Sys2Proof.Machine

/-- Settles O12: with the wrap the pointer is `readZP16`, without it the address one past a byte below 0xFF is still
in the zero page. -/
theorem indirectYUnderBothParameters : Obligations.IndirectYUnderBothParameters := by
  intro s p
  have htrue : indyBase true p s =
      wordOf (s.read (BitVec.ofNat 16 ((p.toNat + 1) % 256))) (s.read (BitVec.ofNat 16 p.toNat)) := by
    rw [← zext16_add_one, ← zext16_eq]
    rfl
  have hfalse : indyBase false p s =
      wordOf (s.read (BitVec.ofNat 16 (p.toNat + 1))) (s.read (BitVec.ofNat 16 p.toNat)) := by
    rw [BitVec.ofNat_add, ← zext16_eq]
    rfl
  refine ⟨by rw [← zext16_eq]; rfl, rfl, htrue, hfalse, fun hp => ?_⟩
  have hlt : (p.toNat + 1) % 256 = p.toNat + 1 := by
    have hne : p.toNat ≠ 255 := fun e => hp (BitVec.eq_of_toNat_eq e)
    omega
  rw [htrue, hfalse, hlt]

/-- The operand is read at the effective address; the immediate byte the instruction carries is the one at `pc_h`. -/
theorem operand_eq_read {m : AddrMode} {s : State} {addr : Word} (h : ea m s = some addr)
    (himm : ∀ i, m = .imm i → s.read s.pc = i) : operand m s = s.read addr := by
  cases m
  case imm i =>
    cases h
    exact (himm i rfl).symm
  all_goals simp only [operand, h]

theorem result_eq_write {m : AddrMode} {s : State} {addr : Word} (v : Byte) (h : ea m s = some addr) :
    result m v s = s.write addr v := by
  rw [result, h]

/-- Settles O13: three modes are rows of `ea`, `nbytes` and `operand`, and the rest is `operand_eq_read` and
`result_eq_write`. -/
theorem operandAndResult : Obligations.OperandAndResult := by
  intro m v s w
  exact ⟨fun _ => ⟨rfl, rfl, rfl⟩, ⟨rfl, rfl⟩, ⟨rfl, rfl, rfl, rfl⟩, fun _ => operand_eq_read,
    fun _ => result_eq_write v⟩

end Sys2Proof.Machine
end

section
/-! PROOFS. 49_add_subtract R203 (b): the candidate `ADDSUB_BINARY` as numbers. -/

namespace Sys2Proof.Machine

/-- The subtrahend of the candidate's SBC is added complemented. -/
theorem xor_FF_toNat (m : Byte) : (m ^^^ 0xFF).toNat = 255 - m.toNat := by
  have h : m ^^^ 0xFF = ~~~m := BitVec.xor_allOnes
  rw [h, BitVec.toNat_not]

theorem carryByte_toNat (c : Bool) : (carryByte c).toNat = if c then 1 else 0 := by
  cases c <;> rfl

/-- A sum of two bytes and a carry, split into its carry out and its byte. -/
theorem carry_add_ofNat {n : Nat} (h : n < 512) :
    256 * (if decide (255 < n) then 1 else 0) + (BitVec.ofNat 8 n).toNat = n := by
  rw [BitVec.toNat_ofNat]
  by_cases hn : 255 < n <;> simp [hn] <;> omega

/-- Settles O10: both sums are below 512, so `carry_add_ofNat` splits them. -/
theorem binaryCandidateArithmetic : Obligations.BinaryCandidateArithmetic := by
  intro a m p
  have hc : (if getFlag p .c then 1 else 0) ≤ 1 := by split <;> omega
  have ha := a.isLt
  have hm := m.isLt
  refine ⟨?adc, ?sbc, fun op => ⟨?zero, ?negative⟩⟩
  case adc =>
    simp only [addSubBinary, carryByte_toNat]
    exact carry_add_ofNat (by omega)
  case sbc =>
    simp only [addSubBinary, carryByte_toNat, xor_FF_toNat]
    exact carry_add_ofNat (by omega)
  case zero => simp only [addSubBinary, decide_eq_true_iff]
  case negative => simp only [addSubBinary, getLsbD_seven, decide_eq_true_iff]

end Sys2Proof.Machine
end

section
/-! PROOFS. 70_reset_and_hazards R231, R239, 20_memory R67: the image is copied, and a store is seen by the fetch. -/

namespace Sys2Proof.Machine

/-- Settles O55: the two bytes after the stored one lie at other addresses. -/
theorem storeIsSeenByNextFetch : Obligations.StoreIsSeenByNextFetch := by
  intro s addr
  have hone : addr + 1 ≠ addr := by bv_omega
  have htwo : addr + 2 ≠ addr := by bv_omega
  refine ⟨(s.write addr s.a).advance 2, rfl, ?_⟩
  simp only [fetch, State.setPc_pc, State.setPc_read, State.advance_read, State.read_write, if_pos,
    if_neg hone, if_neg htwo]

theorem add_ofNat_succ (addr : Word) (k : Nat) :
    addr + BitVec.ofNat 16 (k + 1) = addr + 1 + BitVec.ofNat 16 k := by
  rw [BitVec.ofNat_add, BitVec.add_comm (BitVec.ofNat 16 k), ← BitVec.add_assoc]
  rfl

theorem State.writeBytes_read_outside (s : State) (addr : Word) (bytes : List Byte) (b : Word)
    (h : ∀ k < bytes.length, b ≠ addr + BitVec.ofNat 16 k) : (s.writeBytes addr bytes).read b = s.read b := by
  induction bytes generalizing s addr with
  | nil => rfl
  | cons v rest ih =>
    have hhead : b ≠ addr := fun e => h 0 (Nat.zero_lt_succ _) (e.trans (BitVec.add_zero addr).symm)
    have htail : ∀ k < rest.length, b ≠ addr + 1 + BitVec.ofNat 16 k := fun k hk =>
      add_ofNat_succ addr k ▸ h (k + 1) (Nat.succ_lt_succ hk)
    rw [State.writeBytes, ih _ _ htail, State.read_write, if_neg hhead]

/-- Bytes at consecutive addresses read back, as long as the addresses do not come round. -/
theorem State.writeBytes_read (s : State) (addr : Word) (bytes : List Byte) (hlen : bytes.length ≤ 65536) {k : Nat}
    (hk : k < bytes.length) : (s.writeBytes addr bytes).read (addr + BitVec.ofNat 16 k) = bytes.getD k 0 := by
  induction bytes generalizing s addr k with
  | nil => cases hk
  | cons v rest ih =>
    rw [List.length_cons] at hlen hk
    cases k with
    | zero =>
      have haddr : addr + BitVec.ofNat 16 0 = addr := BitVec.add_zero addr
      have hrest : ∀ j < rest.length, addr ≠ addr + 1 + BitVec.ofNat 16 j := by
        intro j hj e
        have hsum : addr.toNat = ((addr.toNat + 1) % 65536 + j % 65536) % 65536 := congrArg BitVec.toNat e
        have := addr.isLt
        omega
      rw [haddr, State.writeBytes, State.writeBytes_read_outside _ _ _ _ hrest, State.read_write, if_pos rfl,
        List.getD_cons_zero]
    | succ k =>
      rw [State.writeBytes, add_ofNat_succ, ih _ _ (by omega) (by omega), List.getD_cons_succ]

/-- Copying bytes changes memory alone. -/
theorem State.writeBytes_eq_setMem (s : State) (addr : Word) (bytes : List Byte) :
    s.writeBytes addr bytes = s.setMem (s.writeBytes addr bytes).mem := by
  induction bytes generalizing s addr with
  | nil => rfl
  | cons v rest ih => exact ih (s.write addr v) (addr + 1)

/-- Settles O56: an image of at most 32768 bytes ends at the top of memory, so its addresses do not come round. -/
theorem loadProgramCopiesTheImage : Obligations.LoadProgramCopiesTheImage := by
  intro bytes s
  refine ⟨fun hlen => ?copied, fun hlen => if_neg (Nat.not_le.2 hlen)⟩
  have hregs := s.writeBytes_eq_setMem Config.programBase bytes
  refine ⟨s.writeBytes Config.programBase bytes, if_pos hlen, fun k hk => ?inside, fun addr haddr => ?outside,
    by rw [hregs]; exact ⟨rfl, rfl, rfl, rfl, rfl, rfl⟩⟩
  case inside =>
    rw [BitVec.ofNat_add]
    exact s.writeBytes_read Config.programBase bytes (by omega) hk
  case outside =>
    refine s.writeBytes_read_outside _ _ _ fun k hk e => ?_
    have hsum : addr.toNat = (32768 + k % 65536) % 65536 := congrArg BitVec.toNat e
    omega

end Sys2Proof.Machine
end

section
/-! PROOFS. 40_load_store, 41_logical, 44_inc_dec, 47_stack_transfer, 48_flag_nop: the instructions that move, combine
or step one byte, with Z and N from it, and those that write one flag. -/

namespace Sys2Proof.Machine

theorem setZN_kept (p v : Byte) : FlagsKeptBut [.z, .n] p (setZN p v) :=
  (FlagsKeptBut.refl _ p).setZN (by decide) (by decide) v

theorem znFrom_setZN (p v : Byte) : ZNFrom v p (setZN p v) :=
  ⟨getFlag_setZN p v .z, (getFlag_setZN p v .n).trans (getLsbD_seven v), setZN_kept p v⟩

/-- Settles O14: a load copies its operand, and `znFrom_setZN` gives P. -/
theorem loadsSetRegisterAndZN : Obligations.LoadsSetRegisterAndZN := by
  intro m s
  have hzn := znFrom_setZN s.p (operand m s)
  exact ⟨⟨_, rfl, rfl, rfl, rfl, rfl, hzn, rfl, fun _ => rfl⟩,
    ⟨_, rfl, rfl, rfl, rfl, rfl, hzn, rfl, fun _ => rfl⟩,
    ⟨_, rfl, rfl, rfl, rfl, rfl, hzn, rfl, fun _ => rfl⟩⟩

/-- Settles O34: a transfer copies a register, and `znFrom_setZN` gives P. -/
theorem transfersCopyAndSetZN : Obligations.TransfersCopyAndSetZN := by
  intro s
  have hzn := znFrom_setZN s.p
  exact ⟨⟨_, rfl, rfl, hzn s.a, rfl, rfl, rfl, rfl, fun _ => rfl⟩,
    ⟨_, rfl, rfl, hzn s.x, rfl, rfl, rfl, rfl, fun _ => rfl⟩,
    ⟨_, rfl, rfl, hzn s.a, rfl, rfl, rfl, rfl, fun _ => rfl⟩,
    ⟨_, rfl, rfl, hzn s.y, rfl, rfl, rfl, rfl, fun _ => rfl⟩,
    ⟨_, rfl, rfl, hzn s.sp, rfl, rfl, rfl, rfl, fun _ => rfl⟩⟩

theorem add_one_toNat (b : Byte) : (b + 1).toNat = (b.toNat + 1) % 256 := BitVec.toNat_add b 1

theorem sub_one_toNat (b : Byte) : (b - 1).toNat = (b.toNat + 255) % 256 := by
  bv_omega

/-- Settles O23: the register wraps (`add_one_toNat`, `sub_one_toNat`), and `znFrom_setZN` gives P. -/
theorem incDecRegisters : Obligations.IncDecRegisters := by
  intro s
  have hzn := znFrom_setZN s.p
  exact ⟨⟨_, rfl, add_one_toNat s.x, hzn _, rfl, rfl, rfl, rfl, fun _ => rfl⟩,
    ⟨_, rfl, add_one_toNat s.y, hzn _, rfl, rfl, rfl, rfl, fun _ => rfl⟩,
    ⟨_, rfl, sub_one_toNat s.x, hzn _, rfl, rfl, rfl, rfl, fun _ => rfl⟩,
    ⟨_, rfl, sub_one_toNat s.y, hzn _, rfl, rfl, rfl, rfl, fun _ => rfl⟩⟩

/-- Settles O35: TXS is an update of S. -/
theorem stackPointerTransferWritesNoFlag : Obligations.StackPointerTransferWritesNoFlag := fun _ => rfl

/-- Settles O17: the three operations act bit by bit, and `znFrom_setZN` gives P. -/
theorem logicalCombineAccumulator : Obligations.LogicalCombineAccumulator := by
  intro m s
  have hzn := znFrom_setZN s.p
  exact ⟨⟨_, rfl, fun _ => BitVec.getLsbD_and, hzn _, rfl, rfl, rfl, rfl, fun _ => rfl⟩,
    ⟨_, rfl, fun _ => BitVec.getLsbD_or, hzn _, rfl, rfl, rfl, rfl, fun _ => rfl⟩,
    ⟨_, rfl, fun _ => BitVec.getLsbD_xor, hzn _, rfl, rfl, rfl, rfl, fun _ => rfl⟩⟩

/-- A state that reads like another but at one address keeps the rest. -/
theorem MemoryKeptBut.of_read {s t : State} {addr : Word} {v : Byte}
    (h : ∀ b, t.read b = if b = addr then v else s.read b) : MemoryKeptBut [addr] s t := fun b hb => by
  rw [h, if_neg (List.ne_of_not_mem_cons hb)]

/-- Every form but the accumulator's has an effective address. -/
theorem ea_isSome {m : AddrMode} {s : State} (h : m ≠ .acc) : (ea m s).isSome := by
  rw [Option.isSome_iff_ne_none]
  exact fun e => h (ea_eq_none.1 e)

/-- Settles O15: the accumulator form alone has no effective address, and `result` writes there (`result_read`). -/
theorem storesWriteOneByte : Obligations.StoresWriteOneByte := by
  intro m s
  refine ⟨fun h => ea_isSome ?_, fun addr hea => ?_⟩
  · rintro rfl
    revert h
    decide
  · have hread : ∀ v b, ((result m v s).advance (nbytes m)).read b = if b = addr then v else s.read b :=
      fun v b => by rw [State.advance_read, result_read v hea]
    have hself : ∀ v, ((result m v s).advance (nbytes m)).read addr = v := fun v => by rw [hread, if_pos rfl]
    refine ⟨⟨_, rfl, hself s.a, .of_read (hread s.a), ?_⟩, ⟨_, rfl, hself s.x, .of_read (hread s.x), ?_⟩,
      ⟨_, rfl, hself s.y, .of_read (hread s.y), ?_⟩⟩ <;>
    · rw [result_advance _ hea]
      exact ⟨rfl, rfl, rfl, rfl, rfl, rfl⟩

theorem updateMemory_read {m : AddrMode} {s : State} {addr : Word} (f : Byte → Byte) (hea : ea m s = some addr)
    (b : Word) : (updateMemory f m s).read b = if b = addr then f (operand m s) else s.read b := by
  rw [updateMemory, State.advance_read, State.putZN_read, result_read _ hea]

/-- The byte at the effective address is updated, Z and N follow it, the rest of the state is its own. -/
theorem updateMemory_spec {m : AddrMode} {s : State} {addr : Word} (f : Byte → Byte) (hea : ea m s = some addr)
    {n : Nat} (hn : (f (operand m s)).toNat = n) :
    ((updateMemory f m s).read addr).toNat = n ∧
      ZNFrom ((updateMemory f m s).read addr) s.p (updateMemory f m s).p ∧
      MemoryKeptBut [addr] s (updateMemory f m s) ∧ (updateMemory f m s).a = s.a ∧ (updateMemory f m s).x = s.x ∧
      (updateMemory f m s).y = s.y ∧ (updateMemory f m s).sp = s.sp ∧
      (updateMemory f m s).pc = s.pc + nbytes m := by
  have hread : (updateMemory f m s).read addr = f (operand m s) := by rw [updateMemory_read f hea, if_pos rfl]
  have hkept : MemoryKeptBut [addr] s (updateMemory f m s) := .of_read (updateMemory_read f hea)
  rw [hread]
  rw [updateMemory_mem f hea] at hkept ⊢
  exact ⟨hn, znFrom_setZN s.p _, hkept, rfl, rfl, rfl, rfl, rfl⟩

/-- Settles O22: both are `updateMemory`, and the byte wraps. -/
theorem incDecMemory : Obligations.IncDecMemory := by
  intro m s
  refine ⟨fun h => ea_isSome ?_, fun addr hea => ⟨⟨_, rfl, ?inc⟩, ⟨_, rfl, ?dec⟩⟩⟩
  · rintro rfl
    revert h
    decide
  case inc => exact updateMemory_spec _ hea (add_one_toNat _)
  case dec => exact updateMemory_spec _ hea (sub_one_toNat _)

/-- Settles O32: both push one byte. -/
theorem pushInstructions : Obligations.PushInstructions := by
  intro s
  have hkept : ∀ v, MemoryKeptBut [stackAddr s.sp] s (s.push8 v) := fun v => .of_read (s.push8_read v)
  exact ⟨⟨_, rfl, s.push8_read_slot s.a, rfl, hkept s.a, rfl, rfl, rfl, rfl, rfl⟩,
    ⟨_, rfl, s.push8_read_slot s.p, rfl, hkept s.p, rfl, rfl, rfl, rfl, rfl⟩⟩

/-- Settles O33: both pop one byte. -/
theorem pullInstructions : Obligations.PullInstructions := by
  intro s
  exact ⟨⟨_, rfl, rfl, rfl, znFrom_setZN s.p _, rfl, rfl, rfl, fun _ => rfl⟩,
    ⟨_, rfl, rfl, rfl, rfl, rfl, rfl, rfl, fun _ => rfl⟩⟩

/-- Settles O16: LDA reads the address that STA has written. -/
theorem storeThenLoadGivesAccumulator : Obligations.StoreThenLoadGivesAccumulator := by
  intro s z other
  refine ⟨_, _, rfl, rfl, ?_⟩
  show (s.write (zext16 z) s.a).read (zext16 z) = s.a
  rw [State.read_write, if_pos rfl]

theorem getFlag_setFlag_self (p : Byte) (f : Flag) (on : Bool) : getFlag (setFlag p f on) f = on := by
  rw [getFlag_setFlag, if_pos rfl]

theorem setFlag_kept (p : Byte) (f : Flag) (on : Bool) : FlagsKeptBut [f] p (setFlag p f on) :=
  (FlagsKeptBut.refl _ p).setFlag List.mem_cons_self on

/-- Settles O36: each is one flag write. -/
theorem flagInstructionsWriteOneBit : Obligations.FlagInstructionsWriteOneBit := by
  intro s
  have hf : ∀ f on, getFlag (setFlag s.p f on) f = on ∧ FlagsKeptBut [f] s.p (setFlag s.p f on) := fun f on =>
    ⟨getFlag_setFlag_self s.p f on, setFlag_kept s.p f on⟩
  exact ⟨⟨_, rfl, hf .c true⟩, ⟨_, rfl, hf .c false⟩, ⟨_, rfl, hf .i true⟩, ⟨_, rfl, hf .i false⟩,
    ⟨_, rfl, hf .d true⟩, ⟨_, rfl, hf .d false⟩, ⟨_, rfl, hf .v false⟩⟩

end Sys2Proof.Machine
end

section
/-! PROOFS. 45_branch, 46_jump_call_interrupt: branches, jumps, calls, returns and the software interrupt. -/

namespace Sys2Proof.Machine

theorem ite_not_eq {α : Type} (c : Bool) (a b : α) : (if !c then a else b) = if c then b else a := by
  cases c <;> rfl

/-- Settles O24: each is `branch` on its flag or on the flag's negation. -/
theorem branchesTestTheirFlag : Obligations.BranchesTestTheirFlag := by
  intro off s
  simp only [exec, execBcc, execBcs, execBne, execBeq, execBpl, execBmi, execBvc, execBvs, branch_eq, State.flag,
    ite_not_eq, and_self]

/-- Settles O25: the indirect target is the page-wrap read (`readPageWrap16_eq`). -/
theorem jumpsSetPcAlone : Obligations.JumpsSetPcAlone := by
  intro w ptr s
  refine ⟨rfl, ?_⟩
  rw [← s.readPageWrap16_eq]
  rfl

theorem add_one_add_one (b : Byte) : b + 1 + 1 = b + 2 := by
  rw [BitVec.add_assoc]
  rfl

/-- Settles O27: `pop16_eq` gives both slots. -/
theorem returnPopsAddressPlusOne : Obligations.ReturnPopsAddressPlusOne := by
  intro s
  show Host.Outcome.next (s.pop16.2.setPc (s.pop16.1 + 1)) = _
  rw [State.pop16_eq, add_one_add_one]
  rfl

theorem add_two_add_one (b : Byte) : b + 2 + 1 = b + 3 := by
  rw [BitVec.add_assoc]
  rfl

/-- Settles O30: `leaveInterrupt_eq` gives the three slots. -/
theorem returnFromInterruptRestores : Obligations.ReturnFromInterruptRestores := by
  intro s
  show Host.Outcome.next s.leaveInterrupt = _
  rw [State.leaveInterrupt_eq, add_one_add_one s.sp, add_two_add_one]

/-- Settles O26: JSR is `push16` and a write of PC. -/
theorem callPushesReturnAddress : Obligations.CallPushesReturnAddress := by
  intro target s
  refine ⟨(s.push16 (s.pc + 1)).setPc target, rfl, rfl, s.push16_sp_eq (s.pc + 1), ?high, ?low, ?kept,
    rfl, rfl, rfl, rfl⟩
  case high => rw [State.setPc_read, State.push16_read_high]
  case low => rw [State.setPc_read, State.push16_read_low]
  case kept => exact s.push16_kept (s.pc + 1)

/-- Settles O28: RTS reads the two slots that JSR has written (`push16_read_low`, `push16_read_high`). -/
theorem callThenReturnContinues : Obligations.CallThenReturnContinues := by
  intro target pc' s
  have hsp : (((s.push16 (s.pc + 1)).setPc target).setPc pc').sp = s.sp - 2 := by
    rw [State.setPc_sp, State.setPc_sp, State.push16_sp_eq]
  have h1 : s.sp - 2 + 1 = s.sp - 1 := by bv_omega
  have h2 : s.sp - 2 + 2 = s.sp := BitVec.sub_add_cancel _ _
  have hpc : s.pc + 1 + 1 = s.pc + 2 := by
    rw [BitVec.add_assoc]
    rfl
  refine ⟨(s.push16 (s.pc + 1)).setPc target, _, rfl, returnPopsAddressPlusOne _, ?_⟩
  simp only [hsp, h1, h2, hpc, State.setPc_read, State.push16_read_high, State.push16_read_low, wordOf_parts,
    State.setPc_a, State.setPc_x, State.setPc_y, State.setPc_p, State.push16_a, State.push16_x, State.push16_y,
    State.push16_p, and_self]

theorem sub_two_sub_one (b : Byte) : b - 2 - 1 = b - 3 := by
  rw [BitVec.sub_sub]
  rfl

theorem State.enterInterrupt_sp_eq (s : State) (ret : Word) : (s.enterInterrupt ret).sp = s.sp - 3 := by
  rw [State.enterInterrupt_sp, sub_one_sub_one s.sp, sub_two_sub_one]

/-- The three slots are different, wherever S stands. -/
theorem State.enterInterrupt_slots (s : State) (ret : Word) :
    (s.enterInterrupt ret).read (stackAddr s.sp) = hiByte ret ∧
      (s.enterInterrupt ret).read (stackAddr (s.sp - 1)) = loByte ret ∧
      (s.enterInterrupt ret).read (stackAddr (s.sp - 2)) = s.p := by
  have h01 : s.sp ≠ s.sp - 1 := (sub_one_ne_self s.sp).symm
  have h02 : s.sp ≠ s.sp - 2 := by bv_omega
  have h12 : s.sp - 1 ≠ s.sp - 2 := by bv_omega
  simp only [State.enterInterrupt_read, sub_one_sub_one, stackAddr_inj, h01, h02, h12, if_true, if_false, and_self]

theorem State.enterInterrupt_kept (s : State) (ret : Word) :
    MemoryKeptBut [stackAddr s.sp, stackAddr (s.sp - 1), stackAddr (s.sp - 2)] s (s.enterInterrupt ret) := by
  intro b hb
  obtain ⟨h0, h1, h2⟩ : b ≠ stackAddr s.sp ∧ b ≠ stackAddr (s.sp - 1) ∧ b ≠ stackAddr (s.sp - 2) := by
    simpa using hb
  rw [State.enterInterrupt_read, sub_one_sub_one, if_neg h2, if_neg h1, if_neg h0]

/-- Settles O29: `enterInterrupt_slots` and `enterInterrupt_kept` give memory, `enterInterrupt_pc` the vector. -/
theorem breakEntersSoftwareInterrupt : Obligations.BreakEntersSoftwareInterrupt := by
  intro s
  obtain ⟨hhigh, hlow, hp⟩ := s.enterInterrupt_slots s.pc
  refine ⟨s.enterInterrupt s.pc, rfl, s.enterInterrupt_sp_eq s.pc, hhigh, hlow, hp, s.enterInterrupt_kept s.pc,
    ?flag, ?flags, s.enterInterrupt_pc s.pc, ?frame⟩
  case flag => rw [State.enterInterrupt_p, getFlag_setFlag_self]
  case flags =>
    rw [State.enterInterrupt_p]
    exact setFlag_kept s.p .b true
  case frame => simp only [State.enterInterrupt_a, State.enterInterrupt_x, State.enterInterrupt_y, and_self]

/-- Settles O31: RTI reads the three slots that BRK has written. -/
theorem breakThenReturnRestores : Obligations.BreakThenReturnRestores := by
  intro pc' s
  have hsp : ((s.enterInterrupt s.pc).setPc pc').sp = s.sp - 3 := by
    rw [State.setPc_sp, State.enterInterrupt_sp_eq]
  have h1 : s.sp - 3 + 1 = s.sp - 2 := by bv_omega
  have h2 : s.sp - 3 + 2 = s.sp - 1 := by bv_omega
  have h3 : s.sp - 3 + 3 = s.sp := BitVec.sub_add_cancel _ _
  obtain ⟨hhigh, hlow, hp⟩ := s.enterInterrupt_slots s.pc
  refine ⟨s.enterInterrupt s.pc, _, rfl, returnFromInterruptRestores _, ?_⟩
  simp only [hsp, h1, h2, h3, State.setPc_read, hhigh, hlow, hp, wordOf_parts, State.setPc_a, State.setPc_x,
    State.setPc_y, State.enterInterrupt_a, State.enterInterrupt_x, State.enterInterrupt_y, and_self]

end Sys2Proof.Machine
end

section
/-! PROOFS. 42_shift_rotate R130 to R133: the shifts and rotates as numbers, on A and on a byte of memory. -/

namespace Sys2Proof.Machine

theorem aslByte_toNat (v : Byte) : (aslByte v).1.toNat = v.toNat * 2 % 256 := by
  revert v
  decide

theorem aslByte_carry (v : Byte) : (aslByte v).2 = decide (128 ≤ v.toNat) := getLsbD_seven v

theorem lsrByte_toNat (v : Byte) : (lsrByte v).1.toNat = v.toNat / 2 := BitVec.toNat_ushiftRight v 1

theorem lsrByte_carry (v : Byte) : (lsrByte v).2 = decide (v.toNat % 2 = 1) := by
  revert v
  decide

theorem lsrByte_seven (v : Byte) : (lsrByte v).1.getLsbD 7 = false := by
  revert v
  decide

theorem rolByte_toNat (v : Byte) (c : Bool) :
    (rolByte v c).1.toNat = v.toNat * 2 % 256 + (if c then 1 else 0) := by
  revert v c
  decide

theorem rorByte_toNat (v : Byte) (c : Bool) :
    (rorByte v c).1.toNat = v.toNat / 2 + (if c then 128 else 0) := by
  revert v c
  decide

theorem rorByte_seven (v : Byte) (c : Bool) : (rorByte v c).1.getLsbD 7 = c := by
  revert v c
  decide

theorem shiftFlags_kept (p : Byte) (r : Byte × Bool) : FlagsKeptBut [.c, .z, .n] p (shiftFlags p r) :=
  ((FlagsKeptBut.refl _ p).setFlag (by decide) r.2).setZN (by decide) (by decide) r.1

/-- The accumulator form: the result in A, the flags from it, the rest of the state its own. -/
theorem shiftWith_acc_spec (f : Byte → Bool → Byte × Bool) (s : State) {n : Nat} {c neg : Bool}
    (hn : (f s.a (s.flag .c)).1.toNat = n) (hc : (f s.a (s.flag .c)).2 = c)
    (hneg : (f s.a (s.flag .c)).1.getLsbD 7 = neg) :
    (shiftWith f .acc s).a.toNat = n ∧ getFlag (shiftWith f .acc s).p .c = c ∧
      getFlag (shiftWith f .acc s).p .z = decide ((shiftWith f .acc s).a = 0) ∧
      getFlag (shiftWith f .acc s).p .n = neg ∧ FlagsKeptBut [.c, .z, .n] s.p (shiftWith f .acc s).p ∧
      (shiftWith f .acc s).x = s.x ∧ (shiftWith f .acc s).y = s.y ∧ (shiftWith f .acc s).sp = s.sp ∧
      (shiftWith f .acc s).pc = s.pc ∧ MemoryKept s (shiftWith f .acc s) := by
  rw [shiftWith_acc]
  exact ⟨hn, (getFlag_shiftFlags s.p _ .c).trans hc, getFlag_shiftFlags s.p _ .z,
    (getFlag_shiftFlags s.p _ .n).trans hneg, shiftFlags_kept s.p _, rfl, rfl, rfl, BitVec.add_zero s.pc,
    fun _ => rfl⟩

/-- Settles O19: each is `shiftWith` on A (`shiftWith_acc_spec`) with its byte function as numbers. -/
theorem shiftsOnAccumulator : Obligations.ShiftsOnAccumulator := by
  intro s
  refine ⟨⟨_, rfl, ?asl⟩, ⟨_, rfl, ?lsr⟩, ⟨_, rfl, ?rol⟩, ⟨_, rfl, ?ror⟩⟩
  case asl => exact shiftWith_acc_spec _ s (aslByte_toNat s.a) (aslByte_carry s.a) (getLsbD_seven _)
  case lsr => exact shiftWith_acc_spec _ s (lsrByte_toNat s.a) (lsrByte_carry s.a) (lsrByte_seven s.a)
  case rol => exact shiftWith_acc_spec _ s (rolByte_toNat s.a _) (aslByte_carry s.a) (getLsbD_seven _)
  case ror => exact shiftWith_acc_spec _ s (rorByte_toNat s.a _) (lsrByte_carry s.a) (rorByte_seven s.a _)

section

variable {m : AddrMode} {s : State} {addr : Word}

theorem shiftWith_read (f : Byte → Bool → Byte × Bool) (hea : ea m s = some addr) (b : Word) :
    (shiftWith f m s).read b = if b = addr then (f (operand m s) (s.flag .c)).1 else s.read b := by
  show (((result m _ s).setP _).advance _).read b = _
  rw [State.advance_read, State.setP_read, result_read _ hea]

/-- The memory forms: the result at the effective address, the flags from it, the rest of the state its own. -/
theorem shiftWith_mem_spec (f : Byte → Bool → Byte × Bool) (hea : ea m s = some addr) {n : Nat} {c neg : Bool}
    (hn : (f (operand m s) (s.flag .c)).1.toNat = n) (hc : (f (operand m s) (s.flag .c)).2 = c)
    (hneg : (f (operand m s) (s.flag .c)).1.getLsbD 7 = neg) :
    ((shiftWith f m s).read addr).toNat = n ∧ getFlag (shiftWith f m s).p .c = c ∧
      getFlag (shiftWith f m s).p .z = decide ((shiftWith f m s).read addr = 0) ∧
      getFlag (shiftWith f m s).p .n = neg ∧ FlagsKeptBut [.c, .z, .n] s.p (shiftWith f m s).p ∧
      MemoryKeptBut [addr] s (shiftWith f m s) ∧ (shiftWith f m s).a = s.a ∧ (shiftWith f m s).x = s.x ∧
      (shiftWith f m s).y = s.y ∧ (shiftWith f m s).sp = s.sp ∧ (shiftWith f m s).pc = s.pc + nbytes m := by
  have hread : (shiftWith f m s).read addr = (f (operand m s) (s.flag .c)).1 := by
    rw [shiftWith_read f hea, if_pos rfl]
  have hkept : MemoryKeptBut [addr] s (shiftWith f m s) := .of_read (shiftWith_read f hea)
  rw [hread]
  rw [shiftWith_mem f hea] at hkept ⊢
  exact ⟨hn, (getFlag_shiftFlags s.p _ .c).trans hc, getFlag_shiftFlags s.p _ .z,
    (getFlag_shiftFlags s.p _ .n).trans hneg, shiftFlags_kept s.p _, hkept, rfl, rfl, rfl, rfl, rfl⟩

theorem shiftWith_seven (f : Byte → Bool → Byte × Bool) (hea : ea m s = some addr) :
    (f (operand m s) (s.flag .c)).1.getLsbD 7 = decide (128 ≤ ((shiftWith f m s).read addr).toNat) := by
  rw [shiftWith_read f hea, if_pos rfl, getLsbD_seven]

end

/-- Settles O20: each is `shiftWith` at the effective address (`shiftWith_mem_spec`) with its byte function as
numbers. -/
theorem shiftsOnMemory : Obligations.ShiftsOnMemory := by
  intro m s addr hea
  refine ⟨⟨_, rfl, ?asl⟩, ⟨_, rfl, ?lsr⟩, ⟨_, rfl, ?rol⟩, ⟨_, rfl, ?ror⟩⟩
  case asl =>
    exact shiftWith_mem_spec (fun v _ => aslByte v) hea (aslByte_toNat _) (aslByte_carry _)
      (shiftWith_seven (fun v _ => aslByte v) hea)
  case lsr =>
    exact shiftWith_mem_spec (fun v _ => lsrByte v) hea (lsrByte_toNat _) (lsrByte_carry _) (lsrByte_seven _)
  case rol =>
    exact shiftWith_mem_spec rolByte hea (rolByte_toNat _ _) (aslByte_carry _) (shiftWith_seven rolByte hea)
  case ror => exact shiftWith_mem_spec rorByte hea (rorByte_toNat _ _) (lsrByte_carry _) (rorByte_seven _ _)

end Sys2Proof.Machine
end

section
/-! PROOFS. 41_logical R123, 43_compare R141 to R143, 49_add_subtract R200 to R202: the instructions that write flags
of their own. -/

namespace Sys2Proof.Machine

theorem compareFlags_kept (p r v : Byte) : FlagsKeptBut [.c, .z, .n] p (compareFlags p r v) :=
  (FlagsKeptBut.refl _ p).compareFlags (by decide) (by decide) (by decide) r v

/-- A compare completes with the three flags of `compareFlags`, from any register. -/
theorem compareWith_spec (r : Byte) (m : AddrMode) (s : State) :
    getFlag (compareWith r m s).p .c = decide ((operand m s).toNat ≤ r.toNat) ∧
      getFlag (compareWith r m s).p .z = decide (r = operand m s) ∧
      getFlag (compareWith r m s).p .n = (r - operand m s).getLsbD 7 ∧
      FlagsKeptBut [.c, .z, .n] s.p (compareWith r m s).p ∧ (compareWith r m s).a = s.a ∧
      (compareWith r m s).x = s.x ∧ (compareWith r m s).y = s.y ∧ (compareWith r m s).sp = s.sp ∧
      (compareWith r m s).pc = s.pc + nbytes m ∧ MemoryKept s (compareWith r m s) := by
  rw [compareWith_eq]
  exact ⟨getFlag_compareFlags _ _ _ .c, getFlag_compareFlags _ _ _ .z, getFlag_compareFlags _ _ _ .n,
    compareFlags_kept s.p r _, rfl, rfl, rfl, rfl, rfl, fun _ => rfl⟩

/-- Settles O21: each is `compareWith` on its register. -/
theorem comparesWriteFlagsOnly : Obligations.ComparesWriteFlagsOnly := by
  intro m s
  exact ⟨⟨_, rfl, compareWith_spec s.a m s⟩, ⟨_, rfl, compareWith_spec s.x m s⟩,
    ⟨_, rfl, compareWith_spec s.y m s⟩⟩

theorem addSubFlags_kept (p : Byte) (r : AddSubResult) :
    FlagsKeptBut [.c, .z, .v, .n] p (addSubFlags p r) :=
  ((((FlagsKeptBut.refl _ p).setFlag (by decide) r.c).setFlag (by decide) r.z).setFlag (by decide) r.v).setFlag
    (by decide) r.n

theorem addSubWith_spec (f : AddSubOp → Byte → Byte → Byte → AddSubResult) (op : AddSubOp) (m : AddrMode)
    (s : State) :
    (addSubWith f op m s).a = (f op s.a (operand m s) s.p).a ∧
      getFlag (addSubWith f op m s).p .c = (f op s.a (operand m s) s.p).c ∧
      getFlag (addSubWith f op m s).p .z = (f op s.a (operand m s) s.p).z ∧
      getFlag (addSubWith f op m s).p .v = (f op s.a (operand m s) s.p).v ∧
      getFlag (addSubWith f op m s).p .n = (f op s.a (operand m s) s.p).n ∧
      FlagsKeptBut [.c, .z, .v, .n] s.p (addSubWith f op m s).p ∧ (addSubWith f op m s).x = s.x ∧
      (addSubWith f op m s).y = s.y ∧ (addSubWith f op m s).sp = s.sp ∧
      (addSubWith f op m s).pc = s.pc + nbytes m ∧ MemoryKept s (addSubWith f op m s) := by
  rw [addSubWith_eq]
  exact ⟨rfl, getFlag_addSubFlags _ _ .c, getFlag_addSubFlags _ _ .z, getFlag_addSubFlags _ _ .v,
    getFlag_addSubFlags _ _ .n, addSubFlags_kept s.p _, rfl, rfl, rfl, rfl, fun _ => rfl⟩

/-- Settles O39: both are `addSubWith`, which uses nothing of the function but its result. -/
theorem addSubtractUnderAnyFunction : Obligations.AddSubtractUnderAnyFunction := by
  intro m s
  exact ⟨⟨_, rfl, addSubWith_spec _ .adc m s⟩, ⟨_, rfl, addSubWith_spec _ .sbc m s⟩⟩

theorem bitFlags_kept (p a v : Byte) : FlagsKeptBut [.z, .v, .n] p (bitFlags p a v) :=
  (((FlagsKeptBut.refl _ p).setFlag (by decide) _).setFlag (by decide) _).setFlag (by decide) _

/-- Settles O18: `STRICT_DECODE` is false, so the next state is `bitState` under either policy. -/
theorem bitUnderEitherPolicy : Obligations.BitUnderEitherPolicy := by
  intro m s
  refine ⟨bitState Config.bitPolicy m s, rfl, ?_⟩
  cases Config.bitPolicy with
  | standard =>
    exact ⟨rfl, rfl, rfl, rfl, fun _ => rfl, bitFlags_kept _ _ _, getFlag_bitFlags _ _ _ .z,
      getFlag_bitFlags _ _ _ .n, getFlag_bitFlags _ _ _ .v, rfl⟩
  | undefinedNop => exact ⟨rfl, rfl, rfl, rfl, fun _ => rfl, .refl _ _, rfl⟩

end Sys2Proof.Machine
end

section
/-! PROOFS. 10_state R21 to R35, 30_encoding R84: which registers and bits of P an instruction leaves alone, and where
it ends. -/

namespace Sys2Proof.Machine

theorem result_a_of_ne_acc {m : AddrMode} (v : Byte) (s : State) (h : m ≠ .acc) : (result m v s).a = s.a := by
  rcases result_cases s m v with ⟨addr, hea, -⟩ | ⟨hea, -⟩
  · exact result_a v hea
  · exact absurd (ea_eq_none.1 hea) h

/-- Settles O50: each arm names the registers it sets; a store, an increment or a shift sets A in the accumulator form
alone (`result_a_of_ne_acc`), which the stores and increments do not have. -/
theorem registersWrittenOnlyByTheirInstructions : Obligations.RegistersWrittenOnlyByTheirInstructions := by
  intro i s t hwf h
  cases i <;> cases h
  case sta m | stx m | sty m | inc m | dec m =>
    have hm : m ≠ .acc := by
      rintro rfl
      cases hwf
    simp [updateMemory, result_a_of_ne_acc _ s hm]
  case asl m | lsr m | rol m | ror m =>
    have ha : ∀ v, mayWriteA (.asl m) = false → (result m v s).a = s.a := fun v hm =>
      result_a_of_ne_acc v s (by rintro rfl; cases hm)
    simp only [shiftWith, State.advance_a, State.advance_x, State.advance_y, State.advance_sp, State.setP_a,
      State.setP_x, State.setP_y, State.setP_sp, result_x, result_y, result_sp, implies_true, and_self, and_true]
    exact ha _
  case bit m => cases Config.bitPolicy <;> simp [bitState]
  all_goals simp [mayWriteA, mayWriteX, mayWriteY, mayWriteS, accumulate, compareWith, branch, addSubWith,
    State.leaveInterrupt]

/-- Settles O51: each arm's write of P stays within the bits the list names. -/
theorem statusBitsWrittenOnlyByTheirInstructions : Obligations.StatusBitsWrittenOnlyByTheirInstructions := by
  intro i s t k h hk hout
  cases i <;> cases h
  case lda | ldx | ldy | and | ora | eor | inx | iny | dex | dey | pla | tax | txa | tay | tya | tsx =>
    exact setZN_kept s.p _ k hk hout
  case inc m | dec m =>
    show (setZN (result m _ s).p _).getLsbD k = _
    rw [result_p]
    exact setZN_kept s.p _ k hk hout
  case asl | lsr | rol | ror => exact shiftFlags_kept s.p _ k hk hout
  case cmp | cpx | cpy => exact compareFlags_kept s.p _ _ k hk hout
  case adc | sbc => exact addSubFlags_kept s.p _ k hk hout
  case bit m =>
    cases Config.bitPolicy with
    | standard => exact bitFlags_kept s.p _ _ k hk hout
    | undefinedNop => rfl
  case sec | clc => exact setFlag_kept s.p .c _ k hk hout
  case sei | cli => exact setFlag_kept s.p .i _ k hk hout
  case sed | cld => exact setFlag_kept s.p .d _ k hk hout
  case clv => exact setFlag_kept s.p .v _ k hk hout
  case brk =>
    rw [State.enterInterrupt_p]
    exact setFlag_kept s.p .b _ k hk hout
  case plp | rti =>
    have hall : ∀ j < 8, j ∈ [0, 1, 2, 3, 4, 5, 6, 7] := by decide
    exact absurd (hall k hk) hout
  case sta m | stx m | sty m => rw [State.advance_p, result_p]
  all_goals rfl

theorem nbytes_eq_length (m : AddrMode) : nbytes m = BitVec.ofNat 16 m.operandBytes.length := by
  cases m <;> rfl

/-- Settles O53: the arms add `nbytes`, which is the length of the operand bytes (`nbytes_eq_length`), or nothing. -/
theorem otherInstructionsEndPastTheirOperands : Obligations.OtherInstructionsEndPastTheirOperands := by
  intro i s t h hpc hbit
  cases i <;> cases hpc <;> cases h
  case bit m => exact absurd rfl (hbit m)
  case lda m | ldx m | ldy m | and m | ora m | eor m | cmp m | cpx m | cpy m | adc m | sbc m =>
    exact congrArg (s.pc + ·) (nbytes_eq_length m)
  case sta m | stx m | sty m | inc m | dec m | asl m | lsr m | rol m | ror m =>
    simp only [shiftWith, updateMemory, State.advance_pc, State.setP_pc, State.putZN_pc, result_pc, nbytes_eq_length,
      operandBytes]
  all_goals exact (BitVec.add_zero s.pc).symm

end Sys2Proof.Machine
end

section
/-! PROOFS. 10_state R30 to R32: the storage bits of P are tested by no instruction that does not push, load or write
them. -/

namespace Sys2Proof.Machine

/-- The state with these bits of P flipped. -/
def State.flipP (bits : Byte) (s : State) : State := s.setP (s.p ^^^ bits)

/-- The bits of P that an instruction may test: Carry, Zero, Overflow, Negative. -/
def Flag.isTested : Flag → Bool
  | .c | .z | .v | .n => true
  | .i | .d | .b => false

/-! ## P -/

section

variable {bits : Byte} (h : bits &&& 0xC3 = 0)

include h

theorem getLsbD_flagPos_of_isTested {f : Flag} (hf : f.isTested = true) : bits.getLsbD (flagPos f) = false := by
  have hmask : (0xC3 : Byte).getLsbD (flagPos f) = true := by
    revert hf
    cases f <;> decide
  have hbit := congrArg (fun b : Byte => b.getLsbD (flagPos f)) h
  rw [BitVec.getLsbD_and, hmask, Bool.and_true] at hbit
  exact hbit.trans BitVec.getLsbD_zero

theorem getFlag_xor (p : Byte) {f : Flag} (hf : f.isTested = true) : getFlag (p ^^^ bits) f = getFlag p f := by
  rw [getFlag, getFlag, BitVec.getLsbD_xor, getLsbD_flagPos_of_isTested h hf, Bool.xor_false]

theorem setFlag_xor (p : Byte) (on : Bool) {f : Flag} (hf : f.isTested = true) :
    setFlag (p ^^^ bits) f on = setFlag p f on ^^^ bits := by
  apply BitVec.eq_of_getLsbD_eq
  intro k hk
  rw [BitVec.getLsbD_xor, setFlag_getLsbD, setFlag_getLsbD, BitVec.getLsbD_xor]
  split
  case isTrue hkf => rw [hkf, getLsbD_flagPos_of_isTested h hf, Bool.xor_false]
  case isFalse => rfl

theorem setZN_xor (p v : Byte) : setZN (p ^^^ bits) v = setZN p v ^^^ bits := by
  rw [setZN, setZN, setFlag_xor h _ _ rfl, setFlag_xor h _ _ rfl]

theorem compareFlags_xor (p r v : Byte) : compareFlags (p ^^^ bits) r v = compareFlags p r v ^^^ bits := by
  rw [compareFlags, compareFlags, setFlag_xor h _ _ rfl, setFlag_xor h _ _ rfl, setFlag_xor h _ _ rfl]

theorem bitFlags_xor (p a v : Byte) : bitFlags (p ^^^ bits) a v = bitFlags p a v ^^^ bits := by
  rw [bitFlags, bitFlags, setFlag_xor h _ _ rfl, setFlag_xor h _ _ rfl, setFlag_xor h _ _ rfl]

theorem shiftFlags_xor (p : Byte) (r : Byte × Bool) : shiftFlags (p ^^^ bits) r = shiftFlags p r ^^^ bits := by
  rw [shiftFlags, shiftFlags, setFlag_xor h _ _ rfl, setZN_xor h]

end

/-! ## The operations -/

@[simp] theorem State.flipP_a (bits : Byte) (s : State) : (s.flipP bits).a = s.a := rfl
@[simp] theorem State.flipP_x (bits : Byte) (s : State) : (s.flipP bits).x = s.x := rfl
@[simp] theorem State.flipP_y (bits : Byte) (s : State) : (s.flipP bits).y = s.y := rfl
@[simp] theorem State.flipP_p (bits : Byte) (s : State) : (s.flipP bits).p = s.p ^^^ bits := rfl

theorem State.setA_flipP (bits v : Byte) (s : State) : (s.flipP bits).setA v = (s.setA v).flipP bits := rfl
theorem State.setX_flipP (bits v : Byte) (s : State) : (s.flipP bits).setX v = (s.setX v).flipP bits := rfl
theorem State.setY_flipP (bits v : Byte) (s : State) : (s.flipP bits).setY v = (s.setY v).flipP bits := rfl
theorem State.setPc_flipP (bits : Byte) (w : Word) (s : State) :
    (s.flipP bits).setPc w = (s.setPc w).flipP bits := rfl
theorem State.advance_flipP (bits : Byte) (n : Word) (s : State) :
    (s.flipP bits).advance n = (s.advance n).flipP bits := rfl

theorem branch_flipP (bits : Byte) (cond : Bool) (off : Byte) (s : State) :
    branch cond off (s.flipP bits) = (branch cond off s).flipP bits := rfl

theorem operand_flipP (bits : Byte) (m : AddrMode) (s : State) : operand m (s.flipP bits) = operand m s := by
  cases m <;> rfl

theorem result_flipP (bits : Byte) (m : AddrMode) (v : Byte) (s : State) :
    result m v (s.flipP bits) = (result m v s).flipP bits := by
  cases m <;> rfl

theorem jumpAddr_flipP (bits : Byte) (t : JumpTarget) (s : State) : jumpAddr t (s.flipP bits) = jumpAddr t s := by
  cases t <;> rfl

section

variable {bits : Byte} (h : bits &&& 0xC3 = 0) (s : State)

include h

theorem State.flag_flipP {f : Flag} (hf : f.isTested = true) : (s.flipP bits).flag f = s.flag f :=
  getFlag_xor h s.p hf

theorem State.putFlag_flipP (on : Bool) {f : Flag} (hf : f.isTested = true) :
    (s.flipP bits).putFlag f on = (s.putFlag f on).flipP bits :=
  congrArg s.setP (setFlag_xor h s.p on hf)

theorem State.putZN_flipP (v : Byte) : (s.flipP bits).putZN v = (s.putZN v).flipP bits :=
  congrArg s.setP (setZN_xor h s.p v)

theorem accumulate_flipP (f : Byte → Byte → Byte) (m : AddrMode) :
    accumulate f m (s.flipP bits) = (accumulate f m s).flipP bits := by
  simp only [accumulate, operand_flipP, State.flipP_a, State.setA_flipP, State.putZN_flipP h, State.advance_flipP]

theorem compareWith_flipP (r : Byte) (m : AddrMode) :
    compareWith r m (s.flipP bits) = (compareWith r m s).flipP bits := by
  simp only [compareWith, operand_flipP, State.flipP_p, compareFlags_xor h]
  rfl

theorem bitState_flipP (policy : BitPolicy) (m : AddrMode) :
    bitState policy m (s.flipP bits) = (bitState policy m s).flipP bits := by
  cases policy
  case standard =>
    simp only [bitState, operand_flipP, State.flipP_p, State.flipP_a, bitFlags_xor h]
    rfl
  case undefinedNop => rfl

theorem shiftWith_flipP (f : Byte → Bool → Byte × Bool) (m : AddrMode) :
    shiftWith f m (s.flipP bits) = (shiftWith f m s).flipP bits := by
  have hcarry : (s.flipP bits).flag .c = s.flag .c := s.flag_flipP h rfl
  simp only [shiftWith, operand_flipP, result_flipP, hcarry, State.flipP_p, shiftFlags_xor h]
  rfl

theorem updateMemory_flipP (f : Byte → Byte) (m : AddrMode) :
    updateMemory f m (s.flipP bits) = (updateMemory f m s).flipP bits := by
  simp only [updateMemory, operand_flipP, result_flipP, State.putZN_flipP h, State.advance_flipP]

end

/-- Settles O54: the instruction's own operations commute with flipping untested bits of P. -/
theorem storageBitsOfStatusAreNeverTested : Obligations.StorageBitsOfStatusAreNeverTested := by
  intro i s t bits h hadc hsbc hphp hplp hbrk hrti hsei hcli hsed hcld hexec
  show exec i (s.flipP bits) = .next (t.flipP bits)
  cases i <;> cases hexec
  case adc m => exact absurd rfl (hadc m)
  case sbc m => exact absurd rfl (hsbc m)
  case php | plp | brk | rti | sei | cli | sed | cld => contradiction
  case sec | clc => exact congrArg Host.Outcome.next (s.putFlag_flipP h (f := .c) _ rfl)
  case clv => exact congrArg Host.Outcome.next (s.putFlag_flipP h (f := .v) _ rfl)
  case lda m | ldx m | ldy m =>
    simp only [exec, execLda, execLdx, execLdy, operand_flipP, State.setA_flipP, State.setX_flipP, State.setY_flipP,
      State.putZN_flipP h, State.advance_flipP]
  case sta m | stx m | sty m =>
    simp only [exec, execSta, execStx, execSty, State.flipP_a, State.flipP_x, State.flipP_y, result_flipP,
      State.advance_flipP]
  case and | ora | eor => exact congrArg Host.Outcome.next (accumulate_flipP h s _ _)
  case cmp | cpx | cpy => exact congrArg Host.Outcome.next (compareWith_flipP h s _ _)
  case bit => exact congrArg Host.Outcome.next (bitState_flipP h s _ _)
  case asl | lsr | rol | ror => exact congrArg Host.Outcome.next (shiftWith_flipP h s _ _)
  case inc | dec => exact congrArg Host.Outcome.next (updateMemory_flipP h s _ _)
  case inx | dex | tax | tsx => exact congrArg Host.Outcome.next (State.putZN_flipP h (s.setX _) _)
  case iny | dey | tay => exact congrArg Host.Outcome.next (State.putZN_flipP h (s.setY _) _)
  case txa | tya => exact congrArg Host.Outcome.next (State.putZN_flipP h (s.setA _) _)
  case pla => exact congrArg Host.Outcome.next (State.putZN_flipP h (s.pop8.2.setA _) _)
  case jmp => simp only [exec, execJmp, jumpAddr_flipP, State.setPc_flipP]
  case bcc | bcs | bne | beq | bmi | bpl | bvc | bvs =>
    simp only [exec, execBcc, execBcs, execBne, execBeq, execBmi, execBpl, execBvc, execBvs, branch_flipP,
      s.flag_flipP h (f := .c) rfl, s.flag_flipP h (f := .z) rfl, s.flag_flipP h (f := .v) rfl,
      s.flag_flipP h (f := .n) rfl]
  all_goals rfl

end Sys2Proof.Machine
end
